-- ==== Sys2Proof/Word.lean ====
section
/-! DEFINITION. Word.lean: the widths of the block (00_scope.md R7, R9, R10): `XLEN` = 32 bits for every counter,
offset, address, rate, pitch and handle; 8 bits for a byte, a context number and a channel number; 64 bits for a
command word; 128 bits for an output word. All values are unsigned and bit 0 is the least significant bit. -/

namespace Sys2Proof

/-- A register or operand of `XLEN` = 32 bits (R7). -/
abbrev Word := BitVec 32

/-- One byte of buffer RAM or of device memory (R60). -/
abbrev Byte := BitVec 8

/-- The 8-bit context number of a command word (R82, R88). -/
abbrev CtxNum := BitVec 8

/-- A 64-bit command word (R81). -/
abbrev CommandWord := BitVec 64

/-- A 128-bit output word (R95). -/
abbrev OutputWord := BitVec 128

/-- `trunc32(v)` = `v mod 2^32` (R10). -/
def trunc32 (v : Nat) : Word := BitVec.ofNat 32 v

end Sys2Proof
end

