-- ==== Sys2Proof/Syntax.lean ====
section
/-! DEFINITION. Syntax.lean: one constructor per row of spec/opcode_table.json: the thirteen command words (R89), the
two events of the event port (R93) and the ten kinds of output word (R96). Field widths are those of the encoding. -/

namespace Sys2Proof

/-- What a port of the block can carry (R80): one constructor per row of the opcode table. -/
inductive Instr where
  /-- `WRCFG c, reg, value` (R161). -/
  | wrcfg (ctx : CtxNum) (reg : BitVec 8) (value : Word)
  /-- `RDREG c, reg` (R162). -/
  | rdreg (ctx : CtxNum) (reg : BitVec 8)
  /-- `WRBUF c, offset, byte` (R117). -/
  | wrbuf (ctx : CtxNum) (byte : Byte) (offset : Word)
  /-- `RDBUF c, offset` (R118). -/
  | rdbuf (ctx : CtxNum) (offset : Word)
  /-- `INIT c` (R163). -/
  | init (ctx : CtxNum)
  /-- `DESTROY c` (R165). -/
  | destroy (ctx : CtxNum)
  /-- `START c, resume` (R166). -/
  | start (ctx : CtxNum) (resume : Bool)
  /-- `STOP` (R169): no operand. -/
  | stop
  /-- `SETRATE c, rate` (R170). -/
  | setrate (ctx : CtxNum) (rate : Word)
  /-- `ISACTIVE c` (R171). -/
  | isactive (ctx : CtxNum)
  /-- `REFLEN c` (R114). -/
  | reflen (ctx : CtxNum)
  /-- `FEEDPTR c` (R115). -/
  | feedptr (ctx : CtxNum)
  /-- `FEED c, n` (R116). -/
  | feed (ctx : CtxNum) (n : Word)
  /-- `EV_CONS_EDGE`: a rising edge on `irq_req[0]` (R141). -/
  | evConsEdge
  /-- `EV_XFER_DONE`: a rising edge on `irq_req[1]` (R150). -/
  | evXferDone
  /-- Output word `SET_LOOP(ch, addr)` (R96). -/
  | setLoop (ch : BitVec 8) (addr : Word)
  /-- Output word `SET_IRQ_ADDR(addr)` (R96). -/
  | setIrqAddr (addr : Word)
  /-- Output word `XFER_START(ctx, dst, src, len)` (R96). -/
  | xferStart (srcctx : CtxNum) (dst : Word) (srcoff : Word) (len : Word)
  /-- Output word `KEY_ON(mask)` (R96). -/
  | keyOn (chmask : Word)
  /-- Output word `KEY_OFF(mask)` (R96). -/
  | keyOff (chmask : Word)
  /-- Output word `SET_PITCH(ch, pitch)` (R96). -/
  | setPitch (ch : BitVec 8) (pitch : Word)
  /-- Output word `SET_ENV(ch, env)` (R96). -/
  | setEnv (ch : BitVec 8) (env : Word)
  /-- Output word `SET_START(ch, addr)` (R96). -/
  | setStart (ch : BitVec 8) (addr : Word)
  /-- Output word `CB_REFILL(ctx, handle)` (R96). -/
  | cbRefill (ctx : CtxNum) (handle : Word)
  /-- Output word `CB_UNDERRUN(ctx, handle)` (R96). -/
  | cbUnderrun (ctx : CtxNum) (handle : Word)
  deriving DecidableEq, Repr

/-- The context number a command word names; `STOP` (format G, R84), the events and the output words name none. -/
def Instr.namedCtx : Instr → Option CtxNum
  | .wrcfg c _ _ => some c
  | .rdreg c _ => some c
  | .wrbuf c _ _ => some c
  | .rdbuf c _ => some c
  | .init c => some c
  | .destroy c => some c
  | .start c _ => some c
  | .stop => none
  | .setrate c _ => some c
  | .isactive c => some c
  | .reflen c => some c
  | .feedptr c => some c
  | .feed c _ => some c
  | .evConsEdge => none
  | .evXferDone => none
  | .setLoop _ _ => none
  | .setIrqAddr _ => none
  | .xferStart _ _ _ _ => none
  | .keyOn _ => none
  | .keyOff _ => none
  | .setPitch _ _ => none
  | .setEnv _ _ => none
  | .setStart _ _ => none
  | .cbRefill _ _ => none
  | .cbUnderrun _ _ => none

/-- The port of the block an instruction belongs to (R80). The response port carries no instruction. -/
inductive Port where
  /-- 64-bit command words, HOST to block. -/
  | command
  /-- The two request lines `irq_req[1:0]`, DEV and XFER to block. -/
  | event
  /-- 128-bit output words, block to driver and producer. -/
  | output
  deriving DecidableEq, Repr

/-- The port of each instruction: format EV is the event port, format OUT the output port, the rest the command port. -/
def Instr.port : Instr → Port
  | .wrcfg _ _ _ => .command
  | .rdreg _ _ => .command
  | .wrbuf _ _ _ => .command
  | .rdbuf _ _ => .command
  | .init _ => .command
  | .destroy _ => .command
  | .start _ _ => .command
  | .stop => .command
  | .setrate _ _ => .command
  | .isactive _ => .command
  | .reflen _ => .command
  | .feedptr _ => .command
  | .feed _ _ => .command
  | .evConsEdge => .event
  | .evXferDone => .event
  | .setLoop _ _ => .output
  | .setIrqAddr _ => .output
  | .xferStart _ _ _ _ => .output
  | .keyOn _ => .output
  | .keyOff _ => .output
  | .setPitch _ _ => .output
  | .setEnv _ _ => .output
  | .setStart _ _ => .output
  | .cbRefill _ _ => .output
  | .cbUnderrun _ _ => .output

end Sys2Proof
end

