-- ==== Sys2Proof/Decode.lean ====
section
/-! DEFINITION. Decode.lean: from the bits on a port to an instruction, total, rejecting by name (30_encoding.md R81 to
R97); after it the encoder, written from the same tables; then the opcode table's rows as data. A port carries whole
words (R68): there is no byte order and no fetch from memory. -/

namespace Sys2Proof

/-- The bits on one port (R80). -/
inductive PortWord where
  /-- A command word on the command port (R81). -/
  | command (w : CommandWord)
  /-- Rising edges on the request lines `irq_req[1:0]` (R93). -/
  | edges (irq : BitVec 2)
  /-- An output word on the output port (R95). -/
  | output (dw : OutputWord)
  deriving DecidableEq, Repr

/-- Why bits on a port are no instruction. -/
inductive DecodeError where
  /-- R90 (a): `op` is not one of the thirteen opcodes. -/
  | unknownOpcode
  /-- R90 (b): a field the format requires to be 0 is not 0. -/
  | nonzeroField
  /-- R93: no line has an edge. -/
  | noEdge
  /-- R97: `kind` is not one of the ten kinds of R96. -/
  | unknownKind
  /-- R95, R96: the zero field, or an argument the table gives as 0, is not 0. -/
  | nonzeroArgument
  deriving DecidableEq, Repr

/-- `CW[63:56]`, the opcode (R82). -/
def cwOp (w : CommandWord) : BitVec 8 := w.extractLsb' 56 8
/-- `CW[55:48]`, the context number (R82). -/
def cwCtx (w : CommandWord) : BitVec 8 := w.extractLsb' 48 8
/-- `CW[47:40]`, reserved (R82). -/
def cwRsvd (w : CommandWord) : BitVec 8 := w.extractLsb' 40 8
/-- `CW[39:32]`, register number or data byte (R82). -/
def cwAux (w : CommandWord) : BitVec 8 := w.extractLsb' 32 8
/-- `CW[31:0]`, the 32-bit operand (R82), used unsigned and unshifted (R88). -/
def cwImm (w : CommandWord) : Word := w.extractLsb' 0 32
/-- `imm[31:1]`, which `START` requires to be 0 (R85). -/
def cwImmHigh (w : CommandWord) : BitVec 31 := w.extractLsb' 1 31
/-- `imm[0]`, the `resume` operand of `START` (R85). -/
def cwResume (w : CommandWord) : Bool := w.getLsbD 0

/-- Format N: `rsvd`, `aux`, `imm` are 0 (R83). -/
def formatN (w : CommandWord) : Bool := cwRsvd w == 0 && cwAux w == 0 && cwImm w == 0
/-- Format G: `ctx`, `rsvd`, `aux`, `imm` are 0 (R84). -/
def formatG (w : CommandWord) : Bool := cwCtx w == 0 && formatN w
/-- Format I: `rsvd` and `aux` are 0 (R85). -/
def formatI (w : CommandWord) : Bool := cwRsvd w == 0 && cwAux w == 0
/-- Format I of `START`: also `imm[31:1]` is 0 (R85). -/
def formatStart (w : CommandWord) : Bool := formatI w && cwImmHigh w == 0
/-- Format R: `rsvd` and `imm` are 0 (R86). -/
def formatR (w : CommandWord) : Bool := cwRsvd w == 0 && cwImm w == 0
/-- Format RI: `rsvd` is 0 (R87). -/
def formatRI (w : CommandWord) : Bool := cwRsvd w == 0

/-- The instruction, if the fields its format requires to be 0 are (R90 b). -/
def whenFormat (ok : Bool) (i : Instr) : Except DecodeError Instr :=
  if ok then .ok i else .error .nonzeroField

/-- Decoding a command word by the opcode map of R89; every other word is illegal (R90). -/
def decodeCommand (w : CommandWord) : Except DecodeError Instr :=
  if cwOp w = 0x01 then whenFormat (formatRI w) (.wrcfg (cwCtx w) (cwAux w) (cwImm w))
  else if cwOp w = 0x02 then whenFormat (formatR w) (.rdreg (cwCtx w) (cwAux w))
  else if cwOp w = 0x03 then whenFormat (formatRI w) (.wrbuf (cwCtx w) (cwAux w) (cwImm w))
  else if cwOp w = 0x04 then whenFormat (formatI w) (.rdbuf (cwCtx w) (cwImm w))
  else if cwOp w = 0x10 then whenFormat (formatN w) (.init (cwCtx w))
  else if cwOp w = 0x11 then whenFormat (formatN w) (.destroy (cwCtx w))
  else if cwOp w = 0x12 then whenFormat (formatStart w) (.start (cwCtx w) (cwResume w))
  else if cwOp w = 0x13 then whenFormat (formatG w) .stop
  else if cwOp w = 0x14 then whenFormat (formatI w) (.setrate (cwCtx w) (cwImm w))
  else if cwOp w = 0x15 then whenFormat (formatN w) (.isactive (cwCtx w))
  else if cwOp w = 0x16 then whenFormat (formatN w) (.reflen (cwCtx w))
  else if cwOp w = 0x17 then whenFormat (formatN w) (.feedptr (cwCtx w))
  else if cwOp w = 0x18 then whenFormat (formatI w) (.feed (cwCtx w) (cwImm w))
  else .error .unknownOpcode

/-- The event a set of simultaneous edges begins with (R93: line 0 is `EV_CONS_EDGE`, line 1 is `EV_XFER_DONE`). With
edges on both lines it is `EV_CONS_EDGE`, and `edgesLeft` keeps the other for the step after (log entry 5). -/
def decodeEdges (irq : BitVec 2) : Except DecodeError Instr :=
  if irq.getLsbD 0 then .ok .evConsEdge
  else if irq.getLsbD 1 then .ok .evXferDone
  else .error .noEdge

/-- The edges that remain after the event `decodeEdges` gives. -/
def edgesLeft (irq : BitVec 2) : BitVec 2 :=
  if irq.getLsbD 0 then irq &&& 0b10 else 0

/-- `DW[127:120]`, the kind (R95). -/
def dwKind (w : OutputWord) : BitVec 8 := w.extractLsb' 120 8
/-- `DW[119:112]`, channel or context number (R95). -/
def dwCh (w : OutputWord) : BitVec 8 := w.extractLsb' 112 8
/-- `DW[111:96]`, always 0 (R95). -/
def dwZero (w : OutputWord) : BitVec 16 := w.extractLsb' 96 16
/-- `DW[95:64]`, the first argument (R95). -/
def dwA (w : OutputWord) : Word := w.extractLsb' 64 32
/-- `DW[63:32]`, the second argument (R95). -/
def dwB (w : OutputWord) : Word := w.extractLsb' 32 32
/-- `DW[31:0]`, the third argument (R95). -/
def dwC (w : OutputWord) : Word := w.extractLsb' 0 32

/-- The kinds with three arguments and a context: only the zero field is 0 (R96, `XFER_START`). -/
def outFull (w : OutputWord) : Bool := dwZero w == 0
/-- The kinds with `ch` and one argument: `b` and `c` are 0 (R96). -/
def outChA (w : OutputWord) : Bool := outFull w && dwB w == 0 && dwC w == 0
/-- The kinds with one argument and no `ch` (R96). -/
def outA (w : OutputWord) : Bool := outChA w && dwCh w == 0

/-- The instruction, if the fields R96 gives as 0 are. -/
def whenArguments (ok : Bool) (i : Instr) : Except DecodeError Instr :=
  if ok then .ok i else .error .nonzeroArgument

/-- Decoding an output word by the table of R96; the block emits no other kind (R97). -/
def decodeOutput (w : OutputWord) : Except DecodeError Instr :=
  if dwKind w = 0x01 then whenArguments (outChA w) (.setLoop (dwCh w) (dwA w))
  else if dwKind w = 0x02 then whenArguments (outA w) (.setIrqAddr (dwA w))
  else if dwKind w = 0x03 then whenArguments (outFull w) (.xferStart (dwCh w) (dwA w) (dwB w) (dwC w))
  else if dwKind w = 0x04 then whenArguments (outA w) (.keyOn (dwA w))
  else if dwKind w = 0x05 then whenArguments (outA w) (.keyOff (dwA w))
  else if dwKind w = 0x06 then whenArguments (outChA w) (.setPitch (dwCh w) (dwA w))
  else if dwKind w = 0x07 then whenArguments (outChA w) (.setEnv (dwCh w) (dwA w))
  else if dwKind w = 0x08 then whenArguments (outChA w) (.setStart (dwCh w) (dwA w))
  else if dwKind w = 0x10 then whenArguments (outChA w) (.cbRefill (dwCh w) (dwA w))
  else if dwKind w = 0x11 then whenArguments (outChA w) (.cbUnderrun (dwCh w) (dwA w))
  else .error .unknownKind

/-- The decoder of the block's ports. -/
def decode : PortWord → Except DecodeError Instr
  | .command w => decodeCommand w
  | .edges irq => decodeEdges irq
  | .output dw => decodeOutput dw

/-- The command word with the given fields and `rsvd` = 0 (R82). -/
def commandWord (op ctx aux : BitVec 8) (imm : Word) : CommandWord :=
  op.setWidth 64 <<< 56 ||| ctx.setWidth 64 <<< 48 ||| aux.setWidth 64 <<< 32 ||| imm.setWidth 64

/-- The output word with the given fields and the zero field 0 (R95). -/
def outputWord (kind ch : BitVec 8) (a b c : Word) : OutputWord :=
  kind.setWidth 128 <<< 120 ||| ch.setWidth 128 <<< 112 ||| a.setWidth 128 <<< 64 ||| b.setWidth 128 <<< 32
    ||| c.setWidth 128

/-- `SET_LOOP(ch, addr)`, kind 0x01 (R96). -/
def setLoopWord (ch : BitVec 8) (addr : Word) : OutputWord := outputWord 0x01 ch addr 0 0
/-- `SET_IRQ_ADDR(addr)`, kind 0x02 (R96). -/
def setIrqAddrWord (addr : Word) : OutputWord := outputWord 0x02 0 addr 0 0
/-- `XFER_START(ctx, dst, src, len)`, kind 0x03 (R96). -/
def xferStartWord (ctx : CtxNum) (dst src len : Word) : OutputWord := outputWord 0x03 ctx dst src len
/-- `KEY_ON(mask)`, kind 0x04 (R96). -/
def keyOnWord (mask : Word) : OutputWord := outputWord 0x04 0 mask 0 0
/-- `KEY_OFF(mask)`, kind 0x05 (R96). -/
def keyOffWord (mask : Word) : OutputWord := outputWord 0x05 0 mask 0 0
/-- `SET_PITCH(ch, pitch)`, kind 0x06 (R96). -/
def setPitchWord (ch : BitVec 8) (pitch : Word) : OutputWord := outputWord 0x06 ch pitch 0 0
/-- `SET_ENV(ch, env)`, kind 0x07 (R96). -/
def setEnvWord (ch : BitVec 8) (env : Word) : OutputWord := outputWord 0x07 ch env 0 0
/-- `SET_START(ch, addr)`, kind 0x08 (R96). -/
def setStartWord (ch : BitVec 8) (addr : Word) : OutputWord := outputWord 0x08 ch addr 0 0
/-- `CB_REFILL(ctx, handle)`, kind 0x10 (R96). -/
def cbRefillWord (ctx : CtxNum) (handle : Word) : OutputWord := outputWord 0x10 ctx handle 0 0
/-- `CB_UNDERRUN(ctx, handle)`, kind 0x11 (R96). -/
def cbUnderrunWord (ctx : CtxNum) (handle : Word) : OutputWord := outputWord 0x11 ctx handle 0 0

/-- The operand word of `START`: `imm[0]` = `resume`, the other bits 0 (R85). -/
def resumeImm (resume : Bool) : Word := if resume then 1 else 0

/-- The bits of an instruction on its port (R83 to R89, R93, R96). An event is the edge on its own line alone. -/
def encode : Instr → PortWord
  | .wrcfg c r v => .command (commandWord 0x01 c r v)
  | .rdreg c r => .command (commandWord 0x02 c r 0)
  | .wrbuf c b o => .command (commandWord 0x03 c b o)
  | .rdbuf c o => .command (commandWord 0x04 c 0 o)
  | .init c => .command (commandWord 0x10 c 0 0)
  | .destroy c => .command (commandWord 0x11 c 0 0)
  | .start c resume => .command (commandWord 0x12 c 0 (resumeImm resume))
  | .stop => .command (commandWord 0x13 0 0 0)
  | .setrate c v => .command (commandWord 0x14 c 0 v)
  | .isactive c => .command (commandWord 0x15 c 0 0)
  | .reflen c => .command (commandWord 0x16 c 0 0)
  | .feedptr c => .command (commandWord 0x17 c 0 0)
  | .feed c n => .command (commandWord 0x18 c 0 n)
  | .evConsEdge => .edges 0b01
  | .evXferDone => .edges 0b10
  | .setLoop ch a => .output (setLoopWord ch a)
  | .setIrqAddr a => .output (setIrqAddrWord a)
  | .xferStart c d o l => .output (xferStartWord c d o l)
  | .keyOn m => .output (keyOnWord m)
  | .keyOff m => .output (keyOffWord m)
  | .setPitch ch p => .output (setPitchWord ch p)
  | .setEnv ch e => .output (setEnvWord ch e)
  | .setStart ch a => .output (setStartWord ch a)
  | .cbRefill c h => .output (cbRefillWord c h)
  | .cbUnderrun c h => .output (cbUnderrunWord c h)

/-- The pseudo-instruction `CONFIG` (R99): the eight configuration registers, in the order of their numbers. -/
def pseudoConfig (c : CtxNum) (mask il rate base cap thr cbr cbu : Word) : List Instr :=
  [.wrcfg c 0x00 mask, .wrcfg c 0x01 il, .wrcfg c 0x02 rate, .wrcfg c 0x03 base,
   .wrcfg c 0x04 cap, .wrcfg c 0x05 thr, .wrcfg c 0x06 cbr, .wrcfg c 0x07 cbu]

/-- The pseudo-instruction `RESUME` (R99). -/
def pseudoResume (c : CtxNum) : List Instr := [.start c true]

/-- The pseudo-instruction `PAUSE` (R99). -/
def pseudoPause : List Instr := [.stop]

/-- The pseudo-instruction `FILL` (R99): `count` words `WRBUF`, one for each offset. -/
def pseudoFill (c : CtxNum) (offset : Nat) (count : Nat) (byte : Byte) : List Instr :=
  (List.range count).map (fun i => .wrbuf c byte (trunc32 (offset + i)))

/-- The port a word of `nbits` bits belongs to: the event port has 2 bits, the command port 64, the output port 128
(R80, R92). -/
def portWord (nbits w : Nat) : PortWord :=
  if nbits ≤ 8 then .edges (BitVec.ofNat 2 w)
  else if nbits ≤ 64 then .command (BitVec.ofNat 64 w)
  else .output (BitVec.ofNat 128 w)

/-- The instruction the decoder reads from a word of the opcode table's width, or none where it refuses. -/
def decodeTableWord (nbits w : Nat) : Option Instr :=
  match decode (portWord nbits w) with
  | .ok i => some i
  | .error _ => none

/-- A command row of the opcode map: a word `w` is the instruction iff `w &&& mask = pattern` (R89). -/
def commandRow : Instr → Option (CommandWord × CommandWord)
  | .wrcfg _ _ _ => some (0x0100000000000000, 0xFF00FF0000000000)
  | .rdreg _ _ => some (0x0200000000000000, 0xFF00FF00FFFFFFFF)
  | .wrbuf _ _ _ => some (0x0300000000000000, 0xFF00FF0000000000)
  | .rdbuf _ _ => some (0x0400000000000000, 0xFF00FFFF00000000)
  | .init _ => some (0x1000000000000000, 0xFF00FFFFFFFFFFFF)
  | .destroy _ => some (0x1100000000000000, 0xFF00FFFFFFFFFFFF)
  | .start _ _ => some (0x1200000000000000, 0xFF00FFFFFFFFFFFE)
  | .stop => some (0x1300000000000000, 0xFFFFFFFFFFFFFFFF)
  | .setrate _ _ => some (0x1400000000000000, 0xFF00FFFF00000000)
  | .isactive _ => some (0x1500000000000000, 0xFF00FFFFFFFFFFFF)
  | .reflen _ => some (0x1600000000000000, 0xFF00FFFFFFFFFFFF)
  | .feedptr _ => some (0x1700000000000000, 0xFF00FFFFFFFFFFFF)
  | .feed _ _ => some (0x1800000000000000, 0xFF00FFFF00000000)
  | .evConsEdge => none
  | .evXferDone => none
  | .setLoop _ _ => none
  | .setIrqAddr _ => none
  | .xferStart _ _ _ _ => none
  | .keyOn _ => none
  | .keyOff _ => none
  | .setPitch _ _ => none
  | .setEnv _ _ => none
  | .setStart _ _ => none
  | .cbRefill _ _ => none
  | .cbUnderrun _ _ => none

/-- An output row of the opcode table (R96): pattern and mask over 128 bits. -/
def outputRow : Instr → Option (OutputWord × OutputWord)
  | .wrcfg _ _ _ => none
  | .rdreg _ _ => none
  | .wrbuf _ _ _ => none
  | .rdbuf _ _ => none
  | .init _ => none
  | .destroy _ => none
  | .start _ _ => none
  | .stop => none
  | .setrate _ _ => none
  | .isactive _ => none
  | .reflen _ => none
  | .feedptr _ => none
  | .feed _ _ => none
  | .evConsEdge => none
  | .evXferDone => none
  | .setLoop _ _ => some (0x01000000000000000000000000000000, 0xFF00FFFF00000000FFFFFFFFFFFFFFFF)
  | .setIrqAddr _ => some (0x02000000000000000000000000000000, 0xFFFFFFFF00000000FFFFFFFFFFFFFFFF)
  | .xferStart _ _ _ _ => some (0x03000000000000000000000000000000, 0xFF00FFFF000000000000000000000000)
  | .keyOn _ => some (0x04000000000000000000000000000000, 0xFFFFFFFF00000000FFFFFFFFFFFFFFFF)
  | .keyOff _ => some (0x05000000000000000000000000000000, 0xFFFFFFFF00000000FFFFFFFFFFFFFFFF)
  | .setPitch _ _ => some (0x06000000000000000000000000000000, 0xFF00FFFF00000000FFFFFFFFFFFFFFFF)
  | .setEnv _ _ => some (0x07000000000000000000000000000000, 0xFF00FFFF00000000FFFFFFFFFFFFFFFF)
  | .setStart _ _ => some (0x08000000000000000000000000000000, 0xFF00FFFF00000000FFFFFFFFFFFFFFFF)
  | .cbRefill _ _ => some (0x10000000000000000000000000000000, 0xFF00FFFF00000000FFFFFFFFFFFFFFFF)
  | .cbUnderrun _ _ => some (0x11000000000000000000000000000000, 0xFF00FFFF00000000FFFFFFFFFFFFFFFF)

end Sys2Proof
end

