-- ==== Sys2Proof/Config.lean ====
section
/-! DEFINITION. Config.lean: the implementation parameters of 00_scope.md R7 and the free values of the spec.
`NCH`, `MAXCAP` and `SILENT_ADDR` are plain data that State carries and no step writes, so that a statement about every
state is a statement about every value of them (log entry 6); `NCTX` is the number of context slots State holds.
`XLEN` = 32 is the width of `Word`. The functions without a body are free: nothing can be proved of their values. -/

namespace Sys2Proof

/-- The parameters of R7 that are data: fixed for the life of the hardware. -/
structure Config where
  /-- `NCH`: number of hardware channels, width of the channel mask, 1..32 (D4). -/
  nch : Nat
  /-- `MAXCAP`: bytes of buffer RAM of each context, 1..2^32-1 (D5). -/
  maxCap : Nat
  /-- `SILENT_ADDR`: device address of the "static, silent, pre-loaded region" (D6). -/
  silentAddr : Word
  deriving DecidableEq, Repr

/-- The default column of R7, which State.reset takes. -/
def Config.default : Config := { nch := 24, maxCap := 65536, silentAddr := 0x00001000 }

/-- The default `NCTX` of R7, which State.reset takes. -/
def Config.defaultNctx : Nat := 2

/-- The ranges of R7 for the data parameters. -/
def Config.inRange (c : Config) : Bool :=
  decide (1 ≤ c.nch) && decide (c.nch ≤ 32) && decide (1 ≤ c.maxCap) && decide (c.maxCap ≤ 2 ^ 32 - 1)

/-- `ENV_ALWAYS_ON` (R7, fixed 1): "envelope ... always-on (no decay)". -/
def Config.envAlwaysOn : Word := 1

/-- The identity string of R1. No instruction reads it. -/
def Config.identity : String := "RBC-PSn00bSDK-v7"

/-- `PitchOf`: "any function" from a sample rate to a pitch value (R7, D6, U20). Free: log entry 7. -/
opaque Config.pitchOf : Word → Word

/-- The `k`-th byte the spec leaves open ("any 8-bit value, not necessarily the same value twice", R52, R79, U2, U3).
Free: log entry 8. -/
opaque Config.freeByte : Nat → Byte

/-- The `k`-th choice among the bytes a racing transfer may have read (R78, U4). Free: log entry 9. -/
opaque Config.freePick : Nat → Nat

end Sys2Proof
end

