-- ==== Sys2Proof/Machine/Memory.lean ====
section
/-! DEFINITION. Machine/Memory.lean: a byte memory as a list of (address, byte) pairs with addresses strictly rising
(20_memory.md R60, R62, R63, R65). It holds the bytes that have been written; an address it does not list has no defined
value (R52, R65). Both the buffer RAMs and device memory are of this kind; every access is one byte wide (R68). -/

namespace Sys2Proof.Machine

/-- The bytes written to one address space. -/
abbrev Memory := List Host.Cell

/-- What an unlisted address reads as: no defined value (R52, R65). -/
def Memory.unlisted : Option Byte := none

/-- The byte last written at an address, or none where none has been (R62). -/
def Memory.read : Memory → Nat → Option Byte
  | [], _ => Memory.unlisted
  | (b, v) :: m, a => if a = b then some v else Memory.read m a

/-- Writing one byte (R63), keeping the addresses rising. -/
def Memory.write : Memory → Nat → Byte → Memory
  | [], a, v => [(a, v)]
  | (b, w) :: m, a, v =>
    if a < b then (a, v) :: (b, w) :: m
    else if a = b then (a, v) :: m
    else (b, w) :: Memory.write m a v

/-- The canonical form: addresses strictly rising. An entry always differs from what an unlisted address reads as,
since it holds a byte. -/
def Memory.wf : Memory → Bool
  | [] => true
  | (a, _) :: m => (match m with | [] => true | (b, _) :: _ => decide (a < b)) && Memory.wf m

end Sys2Proof.Machine
end

