-- ==== Sys2Proof/Machine/State.lean ====
section
/-! DEFINITION. Machine/State.lean: everything 10_state.md R20 gives the block, the device memory of 20_memory.md R65,
and, marked as the model's own, what resolves the spec's open choices as plain data. -/

namespace Sys2Proof.Machine

/-- The scheduler phase (R25, R130). -/
inductive Phase where
  /-- 0. -/
  | idle
  /-- 1: exists only inside the consumption logic. -/
  | chunkAvail
  /-- 2. -/
  | uploading
  /-- 3. -/
  | playing
  deriving DecidableEq, Repr

/-- One Stream Context (R20 a): configuration, data registers, flags, phase, saved vectors and buffer RAM. -/
structure Context where
  /-- `CFG[c][0]`, the channel mask (R27). -/
  chmask : Word
  /-- `CFG[c][1]`, bytes of one channel in a chunk (R28). -/
  interleave : Word
  /-- `CFG[c][2]`, the sample rate (R29). -/
  rate : Word
  /-- `CFG[c][3]`, the device address of the double buffer (R30). -/
  devbase : Word
  /-- `CFG[c][4]`, the size of the ring in bytes (R31). -/
  capacity : Word
  /-- `CFG[c][5]`, the refill threshold (R32). -/
  thresh : Word
  /-- `CFG[c][6]`, the handle of the refill callback, 0 = not registered (R33). -/
  cbRefill : Word
  /-- `CFG[c][7]`, the handle of the underrun callback, 0 = not registered (R33). -/
  cbUnderrun : Word
  /-- `HEAD`, the next write offset (R22). -/
  head : Word
  /-- `TAIL`, the next read offset (R22). -/
  tail : Word
  /-- `LENGTH`, the bytes buffered (R22). -/
  length : Word
  /-- `CHUNK`, the bytes consumed per cycle (R22, R37). -/
  chunk : Word
  /-- `DBIDX`, the double-buffer index (R22). -/
  dbidx : BitVec 1
  /-- `CHUNKCNT`, the chunks consumed (R22, R144). -/
  chunkcnt : Word
  /-- `ALLOC`, the context is initialised (R34). -/
  alloc : Bool
  /-- `BUFFERING` (R34). -/
  buffering : Bool
  /-- `CBISSUED` (R34). -/
  cbissued : Bool
  /-- `PHASE` (R25). -/
  phase : Phase
  /-- `SAVED_VEC_CONS` (R38). -/
  savedVecCons : Word
  /-- `SAVED_VEC_XFER` (R38). -/
  savedVecXfer : Word
  /-- `BUF[c]`, the bytes written to the buffer RAM since the last `INIT` (R49, R52). -/
  buf : Memory
  deriving DecidableEq, Repr

/-- A context right after reset (R51). -/
def Context.reset : Context :=
  { chmask := 0, interleave := 0, rate := 0, devbase := 0, capacity := 0, thresh := 0, cbRefill := 0, cbUnderrun := 0
    head := 0, tail := 0, length := 0, chunk := 0, dbidx := 0, chunkcnt := 0
    alloc := false, buffering := false, cbissued := false, phase := .idle
    savedVecCons := 0, savedVecXfer := 0, buf := [] }

/-- The model's own: which agent moves next (R16, R21, U18; log entry 1). Any enabled transition may be next, so a run of
the block is a run of the model from a state that lists its agents' moves in order. -/
inductive Turn where
  /-- HOST presents the oldest word waiting at the command port (R81). -/
  | host
  /-- DEV and XFER raise edges on `irq_req[1:0]` (R93). -/
  | edges (irq : BitVec 2)
  /-- CTRL takes the completion interrupt (R151). -/
  | dispatchXfer
  /-- CTRL takes the consumption interrupt (R142). -/
  | dispatchCons
  /-- CTRL continues a suspended `START` (R167). -/
  | startPhase2
  /-- A word is put on the output port (R95; log entry 4). -/
  | output (dw : OutputWord)
  /-- The platform asserts the hardware reset (R51, R220; log entry 14). -/
  | reset
  /-- The optional input `alloc_ok` of `INIT` changes (R164; log entry 13). -/
  | allocInput (ok : Bool)
  deriving DecidableEq, Repr

/-- The state of the block. -/
structure State where
  /-- The contexts `0..NCTX-1` (R20 a); their number is `NCTX` (R7). -/
  ctxs : List Context
  /-- `ACTIVE`: a valid bit and an 8-bit context number; `none` is `nil` (R39). -/
  active : Option CtxNum
  /-- `CONS_EN` (R40). -/
  consEn : Bool
  /-- `CONS_PEND` (R40). -/
  consPend : Bool
  /-- `XFER_PEND` (R40). -/
  xferPend : Bool
  /-- `XFER_BUSY` (R40). -/
  xferBusy : Bool
  /-- `PRIMEWAIT` (R42). -/
  primeWait : Bool
  /-- `FATAL`: 0, or the cause that halted the block (R43). -/
  fatal : Word
  /-- `VEC_CONS` (R44). -/
  vecCons : Word
  /-- `VEC_XFER` (R44). -/
  vecXfer : Word
  /-- `XFER_CTX` (R45). -/
  xferCtx : CtxNum
  /-- `XFER_DST` (R45). -/
  xferDst : Word
  /-- `XFER_SRC` (R45). -/
  xferSrc : Word
  /-- `XFER_LEN` (R45). -/
  xferLen : Word
  /-- `RSTAT` (R46). -/
  rstat : BitVec 8
  /-- `RVAL0` (R46). -/
  rval0 : Word
  /-- `RVAL1` (R46). -/
  rval1 : Word
  /-- The output trace, oldest word first (R47). -/
  trace : List OutputWord
  /-- `DEVMEM`: the bytes landed in device memory (R65, R67). -/
  devmem : Memory
  /-- The model's own: the parameters of R7, written by no step (log entry 6). -/
  config : Config
  /-- The model's own: the agents' moves to come (log entry 1). -/
  turns : List Turn
  /-- The model's own: the words HOST has yet to present at the command port, oldest first (R24, R81; log entry 2). -/
  cmdPort : List CommandWord
  /-- The model's own: the input `alloc_ok` of `INIT` (R164; log entry 13). -/
  allocOk : Bool
  /-- The model's own: the buffer RAM of `XFER_CTX` as it was at the last `XFER_START` (R78; log entry 9). -/
  xferSnap : Memory
  /-- The model's own: the bytes `WRBUF` has written to that RAM since, oldest first (R78; log entry 9). -/
  xferWrites : List Host.Cell
  /-- The model's own: `INIT` or `DESTROY` of `XFER_CTX` has happened since (R78; log entry 9). -/
  xferLost : Bool
  /-- The model's own: how many free values have been drawn (log entry 8). -/
  freeCount : Nat
  deriving DecidableEq, Repr

/-- The reset table of R51 on a block with parameters `cfg` and `n` contexts. The transfer record, which the table calls
unspecified, is 0 (DESIGN CHOICE, unsafe: log entry 12). -/
def State.atReset (cfg : Config) (n : Nat) : State :=
  { ctxs := List.replicate n Context.reset
    active := none
    consEn := false, consPend := false, xferPend := false, xferBusy := false, primeWait := false
    fatal := 0, vecCons := 0, vecXfer := 0
    xferCtx := 0, xferDst := 0, xferSrc := 0, xferLen := 0
    rstat := 0, rval0 := 0, rval1 := 0
    trace := [], devmem := []
    config := cfg, turns := [], cmdPort := [], allocOk := true
    xferSnap := [], xferWrites := [], xferLost := false, freeCount := 0 }

/-- The machine right after reset, with the default parameters of R7. -/
def State.reset : State := State.atReset Config.default Config.defaultNctx

/-- Where the spec gives the hardware no next state. -/
inductive Fault where
  /-- `model-fault(XferOverlap)` (R139, U1): raised by the consumption logic, run by `DISPATCH_CONS`, `START` or
  `START_PHASE2`, when it would start a transfer while one is in flight. It carries the state the block stands in, in
  which that run of the logic has changed nothing but what its step 1 changes. Safe: the spec gives no next state. -/
  | xferOverlap (stopped : State)
  deriving DecidableEq, Repr

/-- Why the model gives a word no meaning. -/
inductive Refusal where
  /-- An instruction the model does not give its meaning. Raised by `exec` only; no arm uses it. Safe. -/
  | notModelled (mnemonic : String)
  /-- The word put on the output port is none of the ten kinds, which "the block never emits" (R97). Raised by `fetch`.
  Safe: no agent of the spec can bring it about. -/
  | unknownOutputWord (dw : OutputWord)
  deriving DecidableEq, Repr

/-- The outcome of an instruction or a step. -/
abbrev Result := Host.Outcome State Fault Refusal

end Sys2Proof.Machine
end

