-- ==== Sys2Proof/Machine/Flags.lean ====
section
/-! DEFINITION. Machine/Flags.lean: the phase code, the packings of FLAGS, IRQSTAT and ACTIVE, and the comparisons that
set or clear a flag (10_state.md R25, R36, R39, R41; 40_ring_buffer.md R111; 41_scheduler.md R133, R136). All
comparisons are unsigned (R119). -/

namespace Sys2Proof.Machine

/-- One bit as a number. -/
def bit (b : Bool) : Nat := if b then 1 else 0

/-- The 2-bit code of a phase (R25). -/
def phaseCode : Phase → Nat
  | .idle => 0
  | .chunkAvail => 1
  | .uploading => 2
  | .playing => 3

/-- `FLAGS`: bit 0 `ALLOC`, bit 1 `BUFFERING`, bit 2 `CBISSUED`, bits `[4:3]` `PHASE` (R36). -/
def flagsWord (k : Context) : Word :=
  trunc32 (bit k.alloc + 2 * bit k.buffering + 4 * bit k.cbissued + 8 * phaseCode k.phase)

/-- `IRQSTAT`: bit 0 `CONS_EN`, bit 1 `CONS_PEND`, bit 2 `XFER_PEND`, bit 3 `XFER_BUSY`, bit 4 `PRIMEWAIT` (R41). -/
def irqstatWord (s : State) : Word :=
  trunc32 (bit s.consEn + 2 * bit s.consPend + 4 * bit s.xferPend + 8 * bit s.xferBusy + 16 * bit s.primeWait)

/-- `ACTIVE` as `RDREG` reads it: bit 31 valid, bits `[7:0]` the context number, 0 for `nil` (R39). -/
def activeWord : Option CtxNum → Word
  | none => 0
  | some a => trunc32 (2 ^ 31 + a.toNat)

/-- The underrun comparison `LENGTH < CHUNK` (R133). -/
def underrunDue (k : Context) : Bool := decide (k.length.toNat < k.chunk.toNat)

/-- The refill-threshold comparator: `LENGTH <= THRESH` and not yet requested for this dip (R136). -/
def refillDue (k : Context) : Bool := decide (k.length.toNat ≤ k.thresh.toNat) && !k.cbissued

/-- `CBISSUED` after a commit that leaves `newlen` bytes: cleared iff `newlen > THRESH` (R111). -/
def cbissuedAfterCommit (k : Context) (newlen : Nat) : Bool :=
  if k.thresh.toNat < newlen then false else k.cbissued

end Sys2Proof.Machine
end

