-- ==== Sys2Proof/Machine/Operands.lean ====
section
/-! DEFINITION. Machine/Operands.lean: what a command's operands select: a context, a register by its number, a buffer
offset, the active channels and their device addresses (00_scope.md R12; 10_state.md R26, R27, R48; 20_memory.md R66). -/

namespace Sys2Proof.Machine

/-- `NCTX` (R7): how many contexts there are. -/
def State.nctx (s : State) : Nat := s.ctxs.length

/-- Whether `ctx < NCTX` (R100 step 4). -/
def State.hasCtx (s : State) (c : CtxNum) : Bool := decide (c.toNat < s.nctx)

/-- The registers of context `c` (R88). A number that names no context gives the reset context; no command reads it
(R100 step 4; log entry 18). -/
def State.ctx (s : State) (c : CtxNum) : Context := s.ctxs.getD c.toNat Context.reset

/-- The state with the registers of context `c` replaced. -/
def State.setCtx (s : State) (c : CtxNum) (k : Context) : State := { s with ctxs := s.ctxs.set c.toNat k }

/-- The byte the buffer RAM of context `c` holds at an offset, none where it holds no defined value (R62). -/
def State.bufByte (s : State) (c : CtxNum) (off : Nat) : Option Byte := (s.ctx c).buf.read off

/-- The byte device memory holds at an address, none where it holds no defined value (R65). -/
def State.devByte (s : State) (addr : Nat) : Option Byte := s.devmem.read addr

/-- The bits `[NCH-1:0]` that exist in a channel mask (R27). -/
def channelBits (cfg : Config) : Word := trunc32 (2 ^ cfg.nch - 1)

/-- `CHMASK` as it reads: bits `[31:NCH]` are 0 (R27). -/
def chmaskOf (cfg : Config) (k : Context) : Word := k.chmask &&& channelBits cfg

/-- `popcount(v)`: the number of 1 bits (R10). -/
def popcount (v : Word) : Nat := (List.range 32).countP (fun i => v.getLsbD i)

/-- `chans(c)`: the channels `0..NCH-1` whose mask bit is 1, ascending (R12). -/
def chansOf (cfg : Config) (k : Context) : List Nat :=
  (List.range cfg.nch).filter (fun i => (chmaskOf cfg k).getLsbD i)

/-- `HalfAddr(h) = trunc32(DEVBASE + h * CHUNK)` (R66). -/
def halfAddr (k : Context) (h : BitVec 1) : Word := trunc32 (k.devbase.toNat + h.toNat * k.chunk.toNat)

/-- `ChanAddr(h, k) = trunc32(HalfAddr(h) + k * INTERLEAVE)` for the `i`-th active channel (R66). -/
def chanAddr (k : Context) (h : BitVec 1) (i : Nat) : Word :=
  trunc32 ((halfAddr k h).toNat + i * k.interleave.toNat)

/-- The output words of a per-channel loop: `words i ch` for the `i`-th active channel `ch`, in order (R12). -/
def perChannel (words : Nat → BitVec 8 → List OutputWord) (chans : List Nat) : List OutputWord :=
  chans.zipIdx.flatMap (fun p => words p.2 (BitVec.ofNat 8 p.1))

/-- The registers of the map of R48. -/
inductive Reg where
  | chmask | interleave | rate | devbase | capacity | thresh | cbRefill | cbUnderrun
  | head | tail | length | chunk | dbidx | flags | chunkcnt | savedVecCons | savedVecXfer
  | active | irqstat | fatal | vecCons | vecXfer
  deriving DecidableEq, Repr

/-- The register a number names; the numbers not in the map of R48 are reserved. -/
def regOf (n : BitVec 8) : Option Reg :=
  match n.toNat with
  | 0x00 => some .chmask
  | 0x01 => some .interleave
  | 0x02 => some .rate
  | 0x03 => some .devbase
  | 0x04 => some .capacity
  | 0x05 => some .thresh
  | 0x06 => some .cbRefill
  | 0x07 => some .cbUnderrun
  | 0x10 => some .head
  | 0x11 => some .tail
  | 0x12 => some .length
  | 0x13 => some .chunk
  | 0x14 => some .dbidx
  | 0x15 => some .flags
  | 0x16 => some .chunkcnt
  | 0x17 => some .savedVecCons
  | 0x18 => some .savedVecXfer
  | 0x20 => some .active
  | 0x21 => some .irqstat
  | 0x22 => some .fatal
  | 0x23 => some .vecCons
  | 0x24 => some .vecXfer
  | _ => none

/-- The value `RDREG` gives for a register of context `c` or a global one (R48, R162). -/
def readReg (s : State) (c : CtxNum) : Reg → Word
  | .chmask => chmaskOf s.config (s.ctx c)
  | .interleave => (s.ctx c).interleave
  | .rate => (s.ctx c).rate
  | .devbase => (s.ctx c).devbase
  | .capacity => (s.ctx c).capacity
  | .thresh => (s.ctx c).thresh
  | .cbRefill => (s.ctx c).cbRefill
  | .cbUnderrun => (s.ctx c).cbUnderrun
  | .head => (s.ctx c).head
  | .tail => (s.ctx c).tail
  | .length => (s.ctx c).length
  | .chunk => (s.ctx c).chunk
  | .dbidx => (s.ctx c).dbidx.setWidth 32
  | .flags => flagsWord (s.ctx c)
  | .chunkcnt => (s.ctx c).chunkcnt
  | .savedVecCons => (s.ctx c).savedVecCons
  | .savedVecXfer => (s.ctx c).savedVecXfer
  | .active => activeWord s.active
  | .irqstat => irqstatWord s
  | .fatal => s.fatal
  | .vecCons => s.vecCons
  | .vecXfer => s.vecXfer

/-- Whether `WRCFG` may name the register: 0x00 to 0x07 only (R48, R161). -/
def isCfgReg (n : BitVec 8) : Bool := decide (n.toNat ≤ 0x07)

/-- `CFG[c][reg] <- v`, the bits `[31:NCH]` of `CHMASK` ignoring the write (R27, R161). -/
def writeCfg (cfg : Config) (k : Context) (reg : BitVec 8) (v : Word) : Context :=
  match regOf reg with
  | some .chmask => { k with chmask := v &&& channelBits cfg }
  | some .interleave => { k with interleave := v }
  | some .rate => { k with rate := v }
  | some .devbase => { k with devbase := v }
  | some .capacity => { k with capacity := v }
  | some .thresh => { k with thresh := v }
  | some .cbRefill => { k with cbRefill := v }
  | some .cbUnderrun => { k with cbUnderrun := v }
  | _ => k

end Sys2Proof.Machine
end

