-- ==== Sys2Proof/Machine/Ops.lean ====
section
/-! DEFINITION. Machine/Ops.lean: the operations the meanings share: responding, emitting, the order of checks, raising a
fatal abort, the buffer RAM primitives, the ring primitives, and the hardware reset. -/

namespace Sys2Proof.Machine

/-- The status codes of `RSTAT` (R94). -/
inductive Status where
  | ok | errIllegal | errCtx | errState | errRange | errHalted | fatalRaised
  deriving DecidableEq, Repr

/-- The number of a status code (R94). -/
def statusCode : Status → BitVec 8
  | .ok => 0x00
  | .errIllegal => 0x01
  | .errCtx => 0x02
  | .errState => 0x03
  | .errRange => 0x04
  | .errHalted => 0x05
  | .fatalRaised => 0x06

/-- `respond(stat, a, b)`: the three response registers (R46). -/
def State.respond (s : State) (st : Status) (a b : Word) : State :=
  { s with rstat := statusCode st, rval0 := a, rval1 := b }

/-- `emit` of several words in order: they are appended to the output trace (R11, R47). -/
def State.emitAll (s : State) (ws : List OutputWord) : State := { s with trace := s.trace ++ ws }

/-- `emit W` (R11, R47). -/
def State.emit (s : State) (w : OutputWord) : State := s.emitAll [w]

/-- A boolean result: 1 = true, 0 = false (R94). -/
def boolWord (b : Bool) : Word := if b then 1 else 0

/-- Cause 1, `NO_CHANNEL` (R192). -/
def causeNoChannel : Word := 1
/-- Cause 2, `ALLOC_FAIL` (R192). -/
def causeAllocFail : Word := 2

/-- `raise Fatal(cause)`, the block's only exception: it writes `FATAL` and the response and nothing else (R191). There is
no return from it; only reset leaves the halted state (R193). -/
def raiseFatal (s : State) (cause : Word) : State :=
  { s.respond .fatalRaised cause 0 with fatal := cause }

/-- What the checks of R100 steps 3 to 7 find for one command; the checks a command does not make pass. -/
structure Checks where
  /-- Step 3 applies: every command but `RDREG`. -/
  haltable : Bool := true
  /-- Step 4: `ctx < NCTX`. -/
  ctxOk : Bool := true
  /-- Step 5: the register number is legal for the command. -/
  regOk : Bool := true
  /-- Step 6: the state check of R160. -/
  stateOk : Bool := true
  /-- Step 7: `imm < CAPACITY`. -/
  offsetOk : Bool := true

/-- The order of checks (R100 steps 3 to 8): the first that fails answers and ends the command with no other change. -/
def checked (s : State) (k : Checks) (run : Result) : Result :=
  if k.haltable && s.fatal != 0 then .next (s.respond .errHalted s.fatal 0)
  else if !k.ctxOk then .next (s.respond .errCtx 0 0)
  else if !k.regOk then .next (s.respond .errRange 0 0)
  else if !k.stateOk then .next (s.respond .errState 0 0)
  else if !k.offsetOk then .next (s.respond .errRange 0 0)
  else run

/-- An illegal command word: `respond(ERR_ILLEGAL, 0, 0)` and nothing else (R90). -/
def illegalWord (s : State) : State := s.respond .errIllegal 0 0

/-- `H_CONS`, the handle of the block's consumption handler (R44). -/
def hCons : Word := 1
/-- `H_XFER`, the handle of the block's completion handler (R44). -/
def hXfer : Word := 2

/-- `MemRead(c, off, 1)` (R62): the byte last written, or a free value where none has been (R52; log entry 8). -/
def memRead (s : State) (c : CtxNum) (off : Nat) : Byte × State :=
  match s.bufByte c off with
  | some v => (v, s)
  | none => (Config.freeByte s.freeCount, { s with freeCount := s.freeCount + 1 })

/-- Whether a transfer out of the buffer RAM of `c` is in flight (R78). -/
def State.transferring (s : State) (c : CtxNum) : Bool := s.xferBusy && s.xferCtx == c

/-- `MemWrite(c, off, 1, v)` (R63). Where the RAM is the source of a transfer in flight, the write joins the values that
transfer may read (R78; log entry 9). -/
def memWrite (s : State) (c : CtxNum) (off : Nat) (v : Byte) : State :=
  let t := s.setCtx c { s.ctx c with buf := (s.ctx c).buf.write off v }
  if s.transferring c then { t with xferWrites := s.xferWrites ++ [(off, v)] } else t

/-- `INIT` or `DESTROY` of `c`: a transfer in flight out of its RAM delivers any value (R78; log entry 9). -/
def loseSource (s : State) (c : CtxNum) : State :=
  if s.transferring c then { s with xferLost := true } else s

/-- The clamp `m = min(n, CAP - LENGTH)` of `commit` (R111). -/
def commitCount (k : Context) (n : Word) : Nat := min n.toNat (k.capacity.toNat - k.length.toNat)

/-- `commit(c, n)` (R111). -/
def commit (k : Context) (n : Word) : Context :=
  let m := commitCount k n
  { k with
    head := trunc32 ((k.head.toNat + m) % k.capacity.toNat)
    length := trunc32 (k.length.toNat + m)
    cbissued := cbissuedAfterCommit k (k.length.toNat + m) }

/-- `consume(c)` (R112); the offset of the first dequeued byte is the old `TAIL`. -/
def consume (k : Context) : Context :=
  { k with
    tail := trunc32 ((k.tail.toNat + k.chunk.toNat) % k.capacity.toNat)
    length := trunc32 (k.length.toNat - k.chunk.toNat) }

/-- `writable_region(c)` (R113): the offset `HEAD` and the contiguous length. -/
def writableRegion (k : Context) : Word × Word :=
  (k.head, trunc32 (min (k.capacity.toNat - k.length.toNat) (k.capacity.toNat - k.head.toNat)))

/-- The hardware reset asserted on a running block (R51, R220): the reset table, on the same hardware. Device memory and
what waits outside the block are the environment's and stay (log entry 14). -/
def hardwareReset (s : State) : State :=
  { State.atReset s.config s.nctx with
    devmem := s.devmem, turns := s.turns, cmdPort := s.cmdPort, allocOk := s.allocOk, freeCount := s.freeCount }

end Sys2Proof.Machine
end

