-- ==== Sys2Proof/Machine/Scheduler.lean ====
section
/-! DEFINITION. Machine/Scheduler.lean: the double-buffer scheduler of 41_scheduler.md: the consumption logic in its six
steps, the event EV_CONS_EDGE and the dispatch step DISPATCH_CONS. -/

namespace Sys2Proof.Machine

/-- Step 1, acknowledge: `CONS_EN <- 0; CONS_PEND <- 0` (R132). This is all that taking the consumption interrupt
changes at entry (R201). -/
def acknowledge (s : State) : State := { s with consEn := false, consPend := false }

/-- Entry of the logic for context `a`: `PLAYING` becomes `IDLE` (R130, R143). -/
def enterIdle (s : State) (a : CtxNum) : State :=
  if (s.ctx a).phase = .playing then s.setCtx a { s.ctx a with phase := .idle } else s

/-- The underrun branch: the callback, if registered, and the interrupt enabled again (R134). -/
def underrunBranch (s : State) (a : CtxNum) : State :=
  let t := if (s.ctx a).cbUnderrun = 0 then s else s.emit (cbUnderrunWord a (s.ctx a).cbUnderrun)
  { t with consEn := true }

/-- Step 3, take the chunk (R135). -/
def takeChunk (s : State) (a : CtxNum) : State :=
  s.setCtx a { consume (s.ctx a) with
    dbidx := (s.ctx a).dbidx ^^^ 1
    buffering := true
    chunkcnt := trunc32 ((s.ctx a).chunkcnt.toNat + 1)
    phase := .chunkAvail }

/-- Step 4, the refill-threshold comparator (R136): the flag is set whether or not a callback is registered. -/
def requestRefill (s : State) (a : CtxNum) : State :=
  if refillDue (s.ctx a) then
    let t := if (s.ctx a).cbRefill = 0 then s else s.emit (cbRefillWord a (s.ctx a).cbRefill)
    t.setCtx a { s.ctx a with cbissued := true }
  else s

/-- Step 5, reprogram the hardware for the fill half, which `DBIDX` numbers after the toggle (R137). -/
def reprogram (s : State) (a : CtxNum) : State :=
  let k := s.ctx a
  s.emitAll (setIrqAddrWord (halfAddr k k.dbidx) ::
    perChannel (fun i ch => [setLoopWord ch (chanAddr k k.dbidx i)]) (chansOf s.config k))

/-- Step 6, start the upload of the `CHUNK` bytes from offset `src` to the fill half (R138), noting what the source RAM
holds now (R78; log entry 9). -/
def startUpload (s : State) (a : CtxNum) (src : Word) : State :=
  let k := s.ctx a
  let half := halfAddr k k.dbidx
  { (s.emit (xferStartWord a half src k.chunk)).setCtx a { k with phase := .uploading } with
    xferCtx := a, xferDst := half, xferSrc := src, xferLen := k.chunk, xferBusy := true
    xferSnap := k.buf, xferWrites := [], xferLost := false }

/-- Steps 3 to 6 (R143). -/
def uploadChunk (s : State) (a : CtxNum) : State :=
  startUpload (reprogram (requestRefill (takeChunk s a) a) a) a (s.ctx a).tail

/-- What a run of the consumption logic comes to: the state it leaves and whether it began a transfer, or
`model-fault(XferOverlap)` with the state it stopped in. -/
inductive ConsResult where
  | ran (s : State) (started : Bool)
  | overlap (stopped : State)

/-- `ConsumptionLogic()` (R131, R143). -/
def consumptionLogic (s : State) : ConsResult :=
  match s.active with
  | none => .ran (acknowledge s) false
  | some a =>
    let t := enterIdle (acknowledge s) a
    if underrunDue (t.ctx a) then .ran (underrunBranch t a) false
    else if t.xferBusy then .overlap t
    else .ran (uploadChunk t a) true

/-- `EV_CONS_EDGE` (R141): latched while the interrupt is enabled, lost otherwise. -/
def execEvConsEdge (s : State) : Result :=
  .next (if s.consEn then { s with consPend := true } else s)

/-- Whether `DISPATCH_XFER` is enabled (R151, R213). -/
def dispatchXferEnabled (s : State) : Bool := s.xferPend && s.vecXfer == hXfer && s.fatal == 0

/-- Whether `DISPATCH_CONS` is enabled (R142): completion has priority (R199). -/
def dispatchConsEnabled (s : State) : Bool :=
  s.consPend && s.consEn && s.vecCons == hCons && s.fatal == 0 && !dispatchXferEnabled s

/-- `DISPATCH_CONS` (R142): the block takes the consumption interrupt. Where it is not enabled there is no such step
(log entry 3). -/
def dispatchCons (s : State) : Result :=
  if dispatchConsEnabled s then
    match consumptionLogic s with
    | .ran t _ => .next t
    | .overlap t => .fault (.xferOverlap t)
  else .next s

end Sys2Proof.Machine
end

