-- ==== Sys2Proof/Machine/Completion.lean ====
section
/-! DEFINITION. Machine/Completion.lean: the transfer-completion handler of 42_completion.md: the event EV_XFER_DONE, the
bytes it lands (20_memory.md R67, R78, R79) and the dispatch step DISPATCH_XFER. -/

namespace Sys2Proof.Machine

/-- The bytes written to offset `o` of the source RAM since the transfer began, oldest first (R78). -/
def writesTo (s : State) (o : Nat) : List Byte := (s.xferWrites.filter (fun p => p.1 == o)).map (fun p => p.2)

/-- One of the values `v`, `ws`, by the free choice `k` (R78; log entry 9). -/
def pickByte (v : Byte) (ws : List Byte) (k : Nat) : Byte :=
  match ws with
  | [] => v
  | _ :: _ => (v :: ws).getD (Config.freePick k % (ws.length + 1)) v

/-- `Payload(i)` (R78, R79): the byte at step 6 if nothing has written it since; one of that byte and those written since
if something has; any byte past the end of the ring, where none was ever written, or after `INIT` or `DESTROY` of the
source. -/
def payload (s : State) (i : Nat) : Byte :=
  let o := s.xferSrc.toNat + i
  let k := s.freeCount + i
  if s.xferLost || decide ((s.ctx s.xferCtx).capacity.toNat ≤ o) then Config.freeByte k
  else
    match s.xferSnap.read o with
    | none => Config.freeByte k
    | some v => pickByte v (writesTo s o) k

/-- The device address of byte `i`: `trunc32(XFER_DST + i)` (R67). -/
def landAddr (s : State) (i : Nat) : Nat := (trunc32 (s.xferDst.toNat + i)).toNat

/-- Device memory after the first `n` bytes have landed, in ascending order (R67). -/
def landBytes (s : State) : Nat → Memory
  | 0 => s.devmem
  | n + 1 => (landBytes s n).write (landAddr s n) (payload s n)

/-- `EV_XFER_DONE` (R150): all bytes land, `XFER_BUSY <- 0`, `XFER_PEND <- 1`. With no transfer in flight XFER has no such
step and nothing happens (log entry 3). -/
def execEvXferDone (s : State) : Result :=
  .next (if s.xferBusy then
    { s with
      devmem := landBytes s s.xferLen.toNat, freeCount := s.freeCount + s.xferLen.toNat
      xferBusy := false, xferPend := true }
    else s)

/-- The per-context part of the completion handler: `BUFFERING <- 0`, and `UPLOADING` becomes `PLAYING` (R151). -/
def chunkLanded (k : Context) : Context :=
  { k with buffering := false, phase := if k.phase = .uploading then .playing else k.phase }

/-- The body of the completion handler (R151): it acts on the context active now, if any (R153). -/
def completionHandler (s : State) : State :=
  let t := { s with xferPend := false, consEn := true }
  match s.active with
  | none => t
  | some a => t.setCtx a (chunkLanded (s.ctx a))

/-- `DISPATCH_XFER` (R151): the block takes the completion interrupt. Where it is not enabled there is no such step
(log entry 3). -/
def dispatchXfer (s : State) : Result :=
  .next (if dispatchXferEnabled s then completionHandler s else s)

end Sys2Proof.Machine
end

