-- ==== Sys2Proof/Machine/Control.lean ====
section
/-! DEFINITION. Machine/Control.lean: the control commands of 43_control.md: WRCFG, RDREG, INIT, DESTROY, START with its
continuation START_PHASE2, STOP, SETRATE, ISACTIVE. -/

namespace Sys2Proof.Machine

/-- `WRCFG c, reg, value` (R161). -/
def execWrcfg (c : CtxNum) (reg : BitVec 8) (value : Word) (s : State) : Result :=
  checked s { ctxOk := s.hasCtx c, regOk := isCfgReg reg, stateOk := !(s.ctx c).alloc }
    (.next ((s.setCtx c (writeCfg s.config (s.ctx c) reg value)).respond .ok 0 0))

/-- `RDREG c, reg` (R162): it works while the block is halted (R100 step 3). -/
def execRdreg (c : CtxNum) (reg : BitVec 8) (s : State) : Result :=
  match regOf reg with
  | none => checked s { haltable := false, ctxOk := s.hasCtx c, regOk := false } (.next s)
  | some r => checked s { haltable := false, ctxOk := s.hasCtx c } (.next (s.respond .ok (readReg s c r) 0))

/-- The integer product `INTERLEAVE * popcount(CHMASK)` (R163 step 2). -/
def chunkProduct (s : State) (c : CtxNum) : Nat :=
  (s.ctx c).interleave.toNat * popcount (chmaskOf s.config (s.ctx c))

/-- Whether the allocation of R163 step 3 succeeds (R164): `1 <= CAPACITY <= MAXCAP`, and the input `alloc_ok`. -/
def allocSucceeds (s : State) (c : CtxNum) : Bool :=
  decide (1 ≤ (s.ctx c).capacity.toNat) && decide ((s.ctx c).capacity.toNat ≤ s.config.maxCap) && s.allocOk

/-- The context steps 4 and 5 of `INIT` leave (R163). -/
def initContext (s : State) (c : CtxNum) : Context :=
  { s.ctx c with
    chunk := trunc32 (chunkProduct s c)
    head := 0, tail := 0, length := 0, dbidx := 0
    buffering := false, cbissued := false, chunkcnt := 0, phase := .idle
    buf := [], alloc := true
    savedVecCons := s.vecCons, savedVecXfer := s.vecXfer }

/-- Steps 4 to 6 of `INIT` (R163): create the context, save and install the vectors. -/
def createContext (s : State) (c : CtxNum) : State :=
  { ((loseSource s c).setCtx c (initContext s c)).respond .ok 0 0 with vecCons := hCons, vecXfer := hXfer }

/-- `INIT c` (R163): `NO_CHANNEL` before `ERR_RANGE` before `ALLOC_FAIL` (R200). -/
def execInit (c : CtxNum) (s : State) : Result :=
  checked s { ctxOk := s.hasCtx c, stateOk := !(s.ctx c).alloc }
    (if popcount (chmaskOf s.config (s.ctx c)) = 0 then .next (raiseFatal s causeNoChannel)
     else if 2 ^ 32 ≤ chunkProduct s c then .next (s.respond .errRange 0 0)
     else if !allocSucceeds s c then .next (raiseFatal s causeAllocFail)
     else .next (createContext s c))

/-- The effect of `DESTROY` (R165): release the buffer, restore the saved vectors. -/
def destroyContext (s : State) (c : CtxNum) : State :=
  { ((loseSource s c).setCtx c { s.ctx c with alloc := false, buf := [] }).respond .ok 0 0 with
    vecCons := (s.ctx c).savedVecCons, vecXfer := (s.ctx c).savedVecXfer }

/-- `DESTROY c` (R165): refused while `c` is active (R160). -/
def execDestroy (c : CtxNum) (s : State) : Result :=
  checked s { ctxOk := s.hasCtx c, stateOk := (s.ctx c).alloc && s.active != some c } (.next (destroyContext s c))

/-- The words `StartTail` emits for each channel of context `c` before its run of the logic (R168). -/
def startWords (s : State) (c : CtxNum) : List OutputWord :=
  let k := s.ctx c
  perChannel (fun i ch =>
    [setStartWord ch (chanAddr k k.dbidx i), setPitchWord ch (Config.pitchOf k.rate),
     setEnvWord ch Config.envAlwaysOn]) (chansOf s.config k)

/-- `StartTail(c)` and the answer true (R166 steps 4 and 5, R168). -/
def startTail (s : State) (c : CtxNum) : Result :=
  match consumptionLogic (s.emitAll (startWords s c)) with
  | .overlap t => .fault (.xferOverlap t)
  | .ran t _ => .next ((t.emit (keyOnWord (chmaskOf t.config (t.ctx c)))).respond .ok (boolWord true) 0)

/-- Binding context `c` as the active stream (R166 step 2). -/
def bind (s : State) (c : CtxNum) : State := { s with active := some c }

/-- `START c, resume` past its checks (R166). A priming run that begins a transfer suspends the command. -/
def startBody (c : CtxNum) (resume : Bool) (s : State) : Result :=
  if s.active.isSome then .next (s.respond .ok (boolWord false) 0)
  else if resume then startTail (bind s c) c
  else
    match consumptionLogic (bind s c) with
    | .overlap t => .fault (.xferOverlap t)
    | .ran t true => .next { t with primeWait := true }
    | .ran t false => startTail t c

/-- `START c, resume` (R166). -/
def execStart (c : CtxNum) (resume : Bool) (s : State) : Result :=
  checked s { ctxOk := s.hasCtx c, stateOk := (s.ctx c).alloc } (startBody c resume s)

/-- Whether `START_PHASE2` is enabled, and for which context (R167). -/
def startPhase2Context (s : State) : Option CtxNum :=
  if s.primeWait && s.fatal == 0 then
    match s.active with
    | some a => if (s.ctx a).buffering then none else some a
    | none => none
  else none

/-- `START_PHASE2` (R167): the second half of a suspended `START`. Where it is not enabled there is no such step
(log entry 3). -/
def startPhase2 (s : State) : Result :=
  match startPhase2Context s with
  | some a => startTail { s with primeWait := false } a
  | none => .next s

/-- The words of `STOP` (R169): `KEY_OFF`, then every active channel repointed at the silent region. -/
def stopWords (s : State) (a : CtxNum) : List OutputWord :=
  keyOffWord (chmaskOf s.config (s.ctx a)) ::
    perChannel (fun _ ch => [setStartWord ch s.config.silentAddr, setLoopWord ch s.config.silentAddr])
      (chansOf s.config (s.ctx a))

/-- `STOP` (R169). -/
def execStop (s : State) : Result :=
  checked s {}
    (match s.active with
     | none => .next (s.respond .ok (boolWord false) 0)
     | some a => .next ({ s.emitAll (stopWords s a) with active := none }.respond .ok (boolWord true) 0))

/-- The words of `SETRATE` on the active stream (R170). -/
def rateWords (s : State) (c : CtxNum) (rate : Word) : List OutputWord :=
  perChannel (fun _ ch => [setPitchWord ch (Config.pitchOf rate)]) (chansOf s.config (s.ctx c))

/-- `SETRATE c, rate` (R170). -/
def execSetrate (c : CtxNum) (rate : Word) (s : State) : Result :=
  checked s { ctxOk := s.hasCtx c, stateOk := (s.ctx c).alloc }
    (.next (((s.setCtx c { s.ctx c with rate := rate }).emitAll
      (if s.active = some c then rateWords s c rate else [])).respond .ok 0 0))

/-- `ISACTIVE c` (R171). -/
def execIsactive (c : CtxNum) (s : State) : Result :=
  checked s { ctxOk := s.hasCtx c } (.next (s.respond .ok (boolWord (s.active == some c)) 0))

end Sys2Proof.Machine
end

