-- ==== Sys2Proof/Machine/Feed.lean ====
section
/-! DEFINITION. Machine/Feed.lean: the feed commands of 40_ring_buffer.md: REFLEN, FEEDPTR, FEED, WRBUF, RDBUF. -/

namespace Sys2Proof.Machine

/-- The checks of a feed command: a context that exists and is initialised (R100, R160). -/
def feedChecks (s : State) (c : CtxNum) : Checks := { ctxOk := s.hasCtx c, stateOk := (s.ctx c).alloc }

/-- The checks of `WRBUF` and `RDBUF`: also `offset < CAPACITY` (R61, R100 step 7). -/
def bufferChecks (s : State) (c : CtxNum) (offset : Word) : Checks :=
  { feedChecks s c with offsetOk := decide (offset.toNat < (s.ctx c).capacity.toNat) }

/-- `REFLEN c` (R114): the free space `CAP - LENGTH`. -/
def execReflen (c : CtxNum) (s : State) : Result :=
  checked s (feedChecks s c)
    (.next (s.respond .ok (trunc32 ((s.ctx c).capacity.toNat - (s.ctx c).length.toNat)) 0))

/-- `FEEDPTR c` (R115): the writable region. -/
def execFeedptr (c : CtxNum) (s : State) : Result :=
  checked s (feedChecks s c)
    (.next (s.respond .ok (writableRegion (s.ctx c)).1 (writableRegion (s.ctx c)).2))

/-- `FEED c, n` (R116): `commit`, answering the number of bytes committed. -/
def execFeed (c : CtxNum) (n : Word) (s : State) : Result :=
  checked s (feedChecks s c)
    (.next ((s.setCtx c (commit (s.ctx c) n)).respond .ok (trunc32 (commitCount (s.ctx c) n)) 0))

/-- `WRBUF c, offset, byte` (R117). -/
def execWrbuf (c : CtxNum) (byte : Byte) (offset : Word) (s : State) : Result :=
  checked s (bufferChecks s c offset) (.next ((memWrite s c offset.toNat byte).respond .ok 0 0))

/-- `RDBUF c, offset` (R118). -/
def execRdbuf (c : CtxNum) (offset : Word) (s : State) : Result :=
  checked s (bufferChecks s c offset)
    (.next ((memRead s c offset.toNat).2.respond .ok ((memRead s c offset.toNat).1.setWidth 32) 0))

end Sys2Proof.Machine
end

