-- ==== Sys2Proof/Machine/Output.lean ====
section
/-! DEFINITION. Machine/Output.lean: the ten output words of 30_encoding.md R96. An output word on the output port is one
call of a driver primitive or of a callback, and its effect on the block is that it is appended to the output trace (R47,
R95): what the device or the producer does with it is outside the block (R4, R50; log entry 4). -/

namespace Sys2Proof.Machine

/-- `SET_LOOP`: "set a per-channel loop/jump target address" (R96 a). -/
def execSetLoop (ch : BitVec 8) (addr : Word) (s : State) : Result := .next (s.emit (setLoopWord ch addr))

/-- `SET_IRQ_ADDR`: "set a global 'next consumption interrupt' trigger address" (R96 b). -/
def execSetIrqAddr (addr : Word) (s : State) : Result := .next (s.emit (setIrqAddrWord addr))

/-- `XFER_START` (R96 c). The transfer record is written by the consumption logic's step 6, not by the word (R138). -/
def execXferStart (c : CtxNum) (dst src len : Word) (s : State) : Result :=
  .next (s.emit (xferStartWord c dst src len))

/-- `KEY_ON`: enable playback on a channel mask (R96 d). -/
def execKeyOn (mask : Word) (s : State) : Result := .next (s.emit (keyOnWord mask))

/-- `KEY_OFF`: disable playback on a channel mask (R96 d). -/
def execKeyOff (mask : Word) (s : State) : Result := .next (s.emit (keyOffWord mask))

/-- `SET_PITCH`: "set per-channel pitch" (R96 e). -/
def execSetPitch (ch : BitVec 8) (pitch : Word) (s : State) : Result := .next (s.emit (setPitchWord ch pitch))

/-- `SET_ENV`: "set per-channel ... envelope" (R96 e). -/
def execSetEnv (ch : BitVec 8) (env : Word) (s : State) : Result := .next (s.emit (setEnvWord ch env))

/-- `SET_START`: "each active channel's start address" (R96). -/
def execSetStart (ch : BitVec 8) (addr : Word) (s : State) : Result := .next (s.emit (setStartWord ch addr))

/-- `CB_REFILL`: the "refill needed" callback (R96, R204). -/
def execCbRefill (c : CtxNum) (handle : Word) (s : State) : Result := .next (s.emit (cbRefillWord c handle))

/-- `CB_UNDERRUN`: the "underrun occurred" callback (R96, R204). -/
def execCbUnderrun (c : CtxNum) (handle : Word) (s : State) : Result := .next (s.emit (cbUnderrunWord c handle))

end Sys2Proof.Machine
end

