-- ==== Sys2Proof/Machine/Dispatch.lean ====
section
/-! DEFINITION. Machine/Dispatch.lean: one arm per constructor of Instr, each one direct call of its meaning. -/

namespace Sys2Proof.Machine

def exec (i : Instr) (s : State) : Host.Outcome State Fault Refusal :=
  match i with
  | .wrcfg c reg value => Sys2Proof.Machine.execWrcfg c reg value s
  | .rdreg c reg => Sys2Proof.Machine.execRdreg c reg s
  | .wrbuf c byte offset => Sys2Proof.Machine.execWrbuf c byte offset s
  | .rdbuf c offset => Sys2Proof.Machine.execRdbuf c offset s
  | .init c => Sys2Proof.Machine.execInit c s
  | .destroy c => Sys2Proof.Machine.execDestroy c s
  | .start c resume => Sys2Proof.Machine.execStart c resume s
  | .stop => Sys2Proof.Machine.execStop s
  | .setrate c rate => Sys2Proof.Machine.execSetrate c rate s
  | .isactive c => Sys2Proof.Machine.execIsactive c s
  | .reflen c => Sys2Proof.Machine.execReflen c s
  | .feedptr c => Sys2Proof.Machine.execFeedptr c s
  | .feed c n => Sys2Proof.Machine.execFeed c n s
  | .evConsEdge => Sys2Proof.Machine.execEvConsEdge s
  | .evXferDone => Sys2Proof.Machine.execEvXferDone s
  | .setLoop ch addr => Sys2Proof.Machine.execSetLoop ch addr s
  | .setIrqAddr addr => Sys2Proof.Machine.execSetIrqAddr addr s
  | .xferStart c dst src len => Sys2Proof.Machine.execXferStart c dst src len s
  | .keyOn mask => Sys2Proof.Machine.execKeyOn mask s
  | .keyOff mask => Sys2Proof.Machine.execKeyOff mask s
  | .setPitch ch pitch => Sys2Proof.Machine.execSetPitch ch pitch s
  | .setEnv ch env => Sys2Proof.Machine.execSetEnv ch env s
  | .setStart ch addr => Sys2Proof.Machine.execSetStart ch addr s
  | .cbRefill c handle => Sys2Proof.Machine.execCbRefill c handle s
  | .cbUnderrun c handle => Sys2Proof.Machine.execCbUnderrun c handle s

end Sys2Proof.Machine
end

