-- ==== Sys2Proof/Machine/Fetch.lean ====
section
/-! DEFINITION. Machine/Fetch.lean: what the agent whose turn it is brings to the block (10_state.md R21; 30_encoding.md
R80, R81, R93). A turn yields an instruction from a port, or a step of the block that has no encoding. -/

namespace Sys2Proof.Machine

/-- What a turn comes to: an instruction to run in a state, or an outcome of its own. -/
inductive Fetched where
  | run (i : Instr) (s : State)
  | done (r : Result)

/-- HOST's turn (R24, R81): the oldest waiting word is accepted, decoded, and illegal ones are answered (R90). While
`PRIMEWAIT = 1` the port accepts nothing and HOST has no step (R42). -/
def fetchCommand (s : State) : Fetched :=
  if s.primeWait then .done (.next s)
  else
    match s.cmdPort with
    | [] => .done (.next s)
    | w :: ws =>
      match decode (.command w) with
      | .ok i => .run i { s with cmdPort := ws }
      | .error _ => .done (.next (illegalWord { s with cmdPort := ws }))

/-- Edges on the event port (R93). Two edges at one instant are two events: the second is the next turn (log entry 5). -/
def fetchEdges (irq : BitVec 2) (s : State) : Fetched :=
  match decode (.edges irq) with
  | .ok i => .run i (if edgesLeft irq = 0 then s else { s with turns := .edges (edgesLeft irq) :: s.turns })
  | .error _ => .done (.next s)

/-- A word on the output port (R95); the block emits no kind that R96 does not list (R97). -/
def fetchOutput (dw : OutputWord) (s : State) : Fetched :=
  match decode (.output dw) with
  | .ok i => .run i s
  | .error _ => .done (.refused (.unknownOutputWord dw))

/-- One turn (R16, R21). -/
def takeTurn (t : Turn) (s : State) : Fetched :=
  match t with
  | .host => fetchCommand s
  | .edges irq => fetchEdges irq s
  | .dispatchXfer => .done (dispatchXfer s)
  | .dispatchCons => .done (dispatchCons s)
  | .startPhase2 => .done (startPhase2 s)
  | .output dw => fetchOutput dw s
  | .reset => .done (.next (hardwareReset s))
  | .allocInput ok => .done (.next { s with allocOk := ok })

/-- The next turn; where no agent has one, nothing happens. -/
def fetch (s : State) : Fetched :=
  match s.turns with
  | [] => .done (.next s)
  | t :: rest => takeTurn t { s with turns := rest }

/-- The state in which the agent of a port comes next with the given bits: HOST with a command word and the port open, an
edge on the event port, or a word on the output port. -/
def stage (s : State) (p : PortWord) : State :=
  match p with
  | .command w => { s with turns := .host :: s.turns, cmdPort := w :: s.cmdPort, primeWait := false }
  | .edges irq => { s with turns := .edges irq :: s.turns }
  | .output dw => { s with turns := .output dw :: s.turns }

end Sys2Proof.Machine
end

