-- ==== Sys2Proof/Machine/Step.lean ====
section
/-! DEFINITION. Machine/Step.lean: one step of the machine is one transition of 00_scope.md R16, atomic (R73): the turn of
the agent that State names next. -/

namespace Sys2Proof.Machine

/-- One step: the instruction that the next turn brings is executed, or the turn's own outcome stands. -/
def step (s : State) : Host.Outcome State Fault Refusal :=
  match fetch s with
  | .run i t => exec i t
  | .done r => r

/-- `s` with an instruction's bits placed where `step` takes its next instruction from: at the port their width belongs
to, with the turn that brings them next and, for a command word, the port open (log entries 2 and 26). -/
def State.withFetchWord (s : State) (nbits w : Nat) : State := stage s (portWord nbits w)

end Sys2Proof.Machine
end

