-- ==== Sys2Proof/WellFormed.lean ====
section
/-! DEFINITION. WellFormed.lean: which instructions a port can carry on a block with given parameters. A command word
has no side condition beyond its encoding: a context, register or offset out of range is an ordinary operand that its
command answers with a status code (R94, R100). An output word is well formed when R95 and R96 allow the block to emit
it: `ch` is a channel `0..NCH-1` or an existing context, a mask names existing channels only, the envelope is
`ENV_ALWAYS_ON`, and a callback carries a registered handle (R33). -/

namespace Sys2Proof

/-- R95: `ch` is a "channel number `0..NCH-1`". -/
def channelOk (cfg : Config) (ch : BitVec 8) : Bool := decide (ch.toNat < cfg.nch)

/-- R20, R95: a context number names one of the `NCTX` contexts. -/
def contextOk (nctx : Nat) (c : CtxNum) : Bool := decide (c.toNat < nctx)

/-- R27: bits `[31:NCH]` of a channel mask are 0. -/
def maskOk (cfg : Config) (m : Word) : Bool := decide (m.toNat < 2 ^ cfg.nch)

/-- The well-formedness check of an instruction on a block with parameters `cfg` and `nctx` contexts. -/
def Instr.wellFormed (cfg : Config) (nctx : Nat) : Instr → Bool
  | .wrcfg _ _ _ => true
  | .rdreg _ _ => true
  | .wrbuf _ _ _ => true
  | .rdbuf _ _ => true
  | .init _ => true
  | .destroy _ => true
  | .start _ _ => true
  | .stop => true
  | .setrate _ _ => true
  | .isactive _ => true
  | .reflen _ => true
  | .feedptr _ => true
  | .feed _ _ => true
  | .evConsEdge => true
  | .evXferDone => true
  | .setLoop ch _ => channelOk cfg ch
  | .setIrqAddr _ => true
  | .xferStart c _ _ _ => contextOk nctx c
  | .keyOn m => maskOk cfg m
  | .keyOff m => maskOk cfg m
  | .setPitch ch _ => channelOk cfg ch
  | .setEnv ch env => channelOk cfg ch && env == Config.envAlwaysOn
  | .setStart ch _ => channelOk cfg ch
  | .cbRefill c h => contextOk nctx c && h != 0
  | .cbUnderrun c h => contextOk nctx c && h != 0

end Sys2Proof
end

