-- ==== Sys2Proof/Safety.lean ====
section
/-! DEFINITION. Safety.lean: what the claims speak of: runs of several steps, the invariants of the spec between
transitions (10_state.md R23, R25, R27, R35, R37; 60_exceptions.md R192, R198), and how a step's turn is described. -/

namespace Sys2Proof.Machine

/-- `n` steps, stopping at the first fault or refusal. -/
def runSteps : Nat → State → Result
  | 0, s => .next s
  | n + 1, s =>
    match step s with
    | .next t => runSteps n t
    | .fault f => .fault f
    | .refused r => .refused r

/-- The block is halted by a fatal abort (R193). -/
def Halted (s : State) : Prop := s.fatal ≠ 0

/-- Every register of an initialised ring is as R23 says: `0 <= LENGTH <= CAPACITY`, `HEAD < CAPACITY`,
`TAIL < CAPACITY`, `(TAIL + LENGTH) mod CAPACITY = HEAD`. -/
def RingOk (k : Context) : Prop :=
  k.alloc = true →
    k.length.toNat ≤ k.capacity.toNat ∧ k.head.toNat < k.capacity.toNat ∧ k.tail.toNat < k.capacity.toNat ∧
    (k.tail.toNat + k.length.toNat) % k.capacity.toNat = k.head.toNat

/-- R23 for every context. -/
def RingInv (s : State) : Prop := ∀ k ∈ s.ctxs, RingOk k

/-- R25: `CHUNK_AVAIL` is never seen between transitions, and `BUFFERING = 1` iff `PHASE = UPLOADING` while `ALLOC = 1`. -/
def PhaseOk (k : Context) : Prop :=
  k.phase ≠ .chunkAvail ∧ (k.alloc = true → (k.buffering = true ↔ k.phase = .uploading))

/-- R25 for every context. -/
def PhaseInv (s : State) : Prop := ∀ k ∈ s.ctxs, PhaseOk k

/-- R35: whenever `ALLOC = 1` and `CBISSUED = 1`, then `LENGTH <= THRESH`. -/
def RefillOk (k : Context) : Prop :=
  k.alloc = true → k.cbissued = true → k.length.toNat ≤ k.thresh.toNat

/-- R35 for every context. -/
def RefillInv (s : State) : Prop := ∀ k ∈ s.ctxs, RefillOk k

/-- R27: the bits of `CHMASK` above the channels that exist are 0. -/
def MaskInv (s : State) : Prop := ∀ k ∈ s.ctxs, k.chmask = chmaskOf s.config k

/-- What `INIT` has validated and computed of an initialised context (R37, R163): at least one channel, the chunk size,
and a capacity the buffer RAM has. -/
def CreatedOk (cfg : Config) (k : Context) : Prop :=
  k.alloc = true →
    0 < popcount (chmaskOf cfg k) ∧ k.chunk.toNat = k.interleave.toNat * popcount (chmaskOf cfg k) ∧
    1 ≤ k.capacity.toNat ∧ k.capacity.toNat ≤ cfg.maxCap

/-- `CreatedOk` for every context. -/
def CreatedInv (s : State) : Prop := ∀ k ∈ s.ctxs, CreatedOk s.config k

/-- R198: clearing `CONS_EN` clears `CONS_PEND`, and an edge is latched only while it is enabled. -/
def ArbiterInv (s : State) : Prop := s.consPend = true → s.consEn = true

/-- R172, R42: the active stream is an initialised context, and a suspended `START` has one. -/
def ActiveInv (s : State) : Prop :=
  (∀ a, s.active = some a → a.toNat < s.nctx ∧ (s.ctx a).alloc = true) ∧
  (s.primeWait = true → s.active.isSome = true)

/-- R61: the buffer RAM holds bytes only of an initialised context and below its `CAPACITY`, in canonical form. -/
def BufOk (k : Context) : Prop :=
  k.buf.wf = true ∧ (∀ p ∈ k.buf, p.1 < k.capacity.toNat) ∧ (k.alloc = false → k.buf = [])

/-- Every memory of the state is in canonical form, and device memory has 32-bit addresses (R60). -/
def MemoryInv (s : State) : Prop :=
  (∀ k ∈ s.ctxs, BufOk k) ∧ s.devmem.wf = true ∧ (∀ p ∈ s.devmem, p.1 < 2 ^ 32) ∧ s.xferSnap.wf = true

/-- An output word R96 allows the block to emit (R97): it decodes, and to a well-formed output instruction. -/
def OutputOk (s : State) (dw : OutputWord) : Prop :=
  ∃ i, decode (.output dw) = .ok i ∧ i.wellFormed s.config s.nctx = true

/-- R97: the trace holds only words the block may emit, on a block whose parameters are in range (R7) and on whose output
port nothing else is put. -/
def TraceInv (s : State) : Prop :=
  s.config.inRange = true ∧ s.nctx ≤ 256 ∧ (∀ dw ∈ s.trace, OutputOk s dw) ∧
  (∀ dw, .output dw ∈ s.turns → OutputOk s dw)

/-- The agent whose turn the next step is. -/
def State.nextTurn (s : State) : Option Turn := s.turns.head?

/-- The command word HOST is about to have accepted is the instruction `i` (R81). -/
def Accepts (s : State) (i : Instr) : Prop :=
  s.nextTurn = some .host ∧ s.primeWait = false ∧
  ∃ w ws, s.cmdPort = w :: ws ∧ decode (.command w) = .ok i

/-- Every byte of every buffer RAM and of device memory reads in `t` as in `s`. -/
def SameMemory (s t : State) : Prop :=
  (∀ c off, t.bufByte c off = s.bufByte c off) ∧ ∀ a, t.devByte a = s.devByte a

/-- Every context but `c` is the same in `t` as in `s`. -/
def SameOtherContexts (s t : State) (c : CtxNum) : Prop := ∀ d, d ≠ c → t.ctx d = s.ctx d

end Sys2Proof.Machine
end

