-- ==== Sys2Proof/Certificates/Slice0/Obligations.lean ====
section
/-! DEFINITION. Certificates/Slice0/Obligations.lean: what is claimed of the model, rule by rule of spec/. -/

open Sys2Proof Sys2Proof.Machine

/-! ## Words the statements share -/

namespace Sys2Proof.Machine

/-- The response registers written and nothing else (R46). -/
def answer (s : State) (st : BitVec 8) (a b : Word) : State := { s with rstat := st, rval0 := a, rval1 := b }

/-- The block runs and context `c` exists (R100 steps 3 and 4). -/
def Ready (s : State) (c : CtxNum) : Prop := s.fatal = 0 ∧ c.toNat < s.nctx

/-- `Ready`, and context `c` is initialised (R160). -/
def RingReady (s : State) (c : CtxNum) : Prop := Ready s c ∧ (s.ctx c).alloc = true

/-- The output words of a list of output instructions, in order (R95, R96). -/
def wordsOf (l : List Instr) : List OutputWord :=
  l.filterMap (fun i => match encode i with | .output dw => some dw | _ => none)

/-- For each active channel of context `c` in ascending order, with its index `k` (R12). -/
def eachChannel (s : State) (c : CtxNum) (f : Nat → BitVec 8 → List Instr) : List Instr :=
  (chansOf s.config (s.ctx c)).zipIdx.flatMap (fun p => f p.2 (BitVec.ofNat 8 p.1))

/-- `ChanAddr(h, k)` written out: `trunc32(DEVBASE + h * CHUNK + k * INTERLEAVE)` (R66, R168). -/
def sliceAddr (k : Context) (h i : Nat) : Word :=
  trunc32 (k.devbase.toNat + h * k.chunk.toNat + i * k.interleave.toNat)

/-- The underrun callback, if registered (R134). -/
def underrunList (s : State) (a : CtxNum) : List Instr :=
  if (s.ctx a).cbUnderrun = 0 then [] else [.cbUnderrun a (s.ctx a).cbUnderrun]

/-- What `StartTail` emits before its run of the logic (R168). -/
def startList (s : State) (c : CtxNum) : List Instr :=
  eachChannel s c (fun k ch =>
    [.setStart ch (sliceAddr (s.ctx c) (s.ctx c).dbidx.toNat k), .setPitch ch (Config.pitchOf (s.ctx c).rate),
     .setEnv ch 1])

/-- What a run of the consumption logic that takes a chunk emits (R136, R137, R138, R145). -/
def uploadList (s : State) (a : CtxNum) : List Instr :=
  let k := s.ctx a
  let f := (k.dbidx ^^^ 1).toNat
  (if k.length.toNat - k.chunk.toNat ≤ k.thresh.toNat ∧ k.cbissued = false ∧ k.cbRefill ≠ 0
    then [.cbRefill a k.cbRefill] else []) ++
  [.setIrqAddr (sliceAddr k f 0)] ++
  eachChannel s a (fun i ch => [.setLoop ch (sliceAddr k f i)]) ++
  [.xferStart a (sliceAddr k f 0) k.tail k.chunk]

/-- The entry of the consumption logic: `PLAYING` becomes `IDLE` (R143 step 1). -/
def idled (k : Context) : Context := { k with phase := if k.phase = .playing then .idle else k.phase }

/-- Conditions under which `DISPATCH_XFER` is enabled (R151). -/
def XferEnabled (s : State) : Prop := s.xferPend = true ∧ s.vecXfer = 2 ∧ s.fatal = 0

/-- Conditions under which `DISPATCH_CONS` is enabled (R142). -/
def ConsEnabled (s : State) : Prop :=
  s.consPend = true ∧ s.consEn = true ∧ s.vecCons = 1 ∧ s.fatal = 0 ∧ ¬ XferEnabled s

/-- The state check of each command, as the table of R160 gives it. -/
def StateCheck (s : State) : Instr → Prop
  | .wrcfg c _ _ => (s.ctx c).alloc = false
  | .init c => (s.ctx c).alloc = false
  | .destroy c => (s.ctx c).alloc = true ∧ s.active ≠ some c
  | .start c _ => (s.ctx c).alloc = true
  | .setrate c _ => (s.ctx c).alloc = true
  | .reflen c => (s.ctx c).alloc = true
  | .feedptr c => (s.ctx c).alloc = true
  | .feed c _ => (s.ctx c).alloc = true
  | .wrbuf c _ _ => (s.ctx c).alloc = true
  | .rdbuf c _ => (s.ctx c).alloc = true
  | _ => True

/-- The register numbers of the map of R48. -/
def registerNumbers : List Nat :=
  [0x00, 0x01, 0x02, 0x03, 0x04, 0x05, 0x06, 0x07, 0x10, 0x11, 0x12, 0x13, 0x14, 0x15, 0x16, 0x17, 0x18,
   0x20, 0x21, 0x22, 0x23, 0x24]

/-- The register number is legal for the command (R48, R100 step 5). -/
def RegisterCheck : Instr → Prop
  | .wrcfg _ r _ => r.toNat ≤ 0x07
  | .rdreg _ r => r.toNat ∈ registerNumbers
  | _ => True

/-- The offset lies in the ring (R61, R100 step 7). -/
def OffsetCheck (s : State) : Instr → Prop
  | .wrbuf c _ o => o.toNat < (s.ctx c).capacity.toNat
  | .rdbuf c o => o.toNat < (s.ctx c).capacity.toNat
  | _ => True

/-- The context number names a context (R100 step 4). -/
def ContextCheck (s : State) (i : Instr) : Prop := ∀ c, i.namedCtx = some c → c.toNat < s.nctx

/-- Step 3 lets the command on: the block runs, or the command is `RDREG` (R100). -/
def HaltCheck (s : State) (i : Instr) : Prop := s.fatal = 0 ∨ ∃ c r, i = .rdreg c r

/-- The map of R48: the number of each register and what it reads as in context `c`. -/
def registerMap (s : State) (c : CtxNum) : List (BitVec 8 × Word) :=
  [(0x00, chmaskOf s.config (s.ctx c)), (0x01, (s.ctx c).interleave), (0x02, (s.ctx c).rate),
   (0x03, (s.ctx c).devbase), (0x04, (s.ctx c).capacity), (0x05, (s.ctx c).thresh), (0x06, (s.ctx c).cbRefill),
   (0x07, (s.ctx c).cbUnderrun), (0x10, (s.ctx c).head), (0x11, (s.ctx c).tail), (0x12, (s.ctx c).length),
   (0x13, (s.ctx c).chunk), (0x14, (s.ctx c).dbidx.setWidth 32), (0x15, flagsWord (s.ctx c)),
   (0x16, (s.ctx c).chunkcnt), (0x17, (s.ctx c).savedVecCons), (0x18, (s.ctx c).savedVecXfer),
   (0x20, activeWord s.active), (0x21, irqstatWord s), (0x22, s.fatal), (0x23, s.vecCons), (0x24, s.vecXfer)]

/-- Whether the transfer in flight, or the last one, has lost its source once `INIT` or `DESTROY` of `c` is done: it has
where it is in flight out of the RAM of `c`, and otherwise as before (R78; log entry 9). -/
def sourceLost (s : State) (c : CtxNum) : Bool := if s.xferBusy = true ∧ s.xferCtx = c then true else s.xferLost

/-- Feeding a list of sizes to context `c`, one `FEED` after another. -/
def feedAll (c : CtxNum) : List Word → State → Result
  | [], s => .next s
  | n :: ns, s =>
    match exec (.feed c n) s with
    | .next t => feedAll c ns t
    | r => r

end Sys2Proof.Machine

/-! ## Encoding -/

/-- R81 to R96: decoding the encoding of any instruction, whatever its operands, gives it back. -/
def Obligations.DecodeOfEncodeIsTheInstruction : Prop := ∀ i : Instr, decode (encode i) = .ok i

/-- R81 to R97: a command or output word that decodes is the encoding of what it decodes to: no bit is dropped. -/
def Obligations.DecodedWordsEncodeBack : Prop :=
  (∀ w i, decode (.command w) = .ok i → encode i = .command w) ∧
  (∀ dw i, decode (.output dw) = .ok i → encode i = .output dw)

/-- R89: a command word is the instruction of a row of the opcode map iff masked it equals the row's match. -/
def Obligations.CommandWordsFollowTheOpcodeMap : Prop :=
  ∀ (w : CommandWord) (i : Instr) (p m : CommandWord), commandRow i = some (p, m) →
    ((∃ j, decode (.command w) = .ok j ∧ commandRow j = some (p, m)) ↔ w &&& m = p)

/-- R95, R96: an output word is of a row's kind iff masked it equals the row's match. -/
def Obligations.OutputWordsFollowTheKindTable : Prop :=
  ∀ (w : OutputWord) (i : Instr) (p m : OutputWord), outputRow i = some (p, m) →
    ((∃ j, decode (.output w) = .ok j ∧ outputRow j = some (p, m)) ↔ w &&& m = p)

/-- 96_derived_vectors.md 3.1: words of the spec decode to the instructions it reads them as. -/
def Obligations.WordsOfTheSpecDecode : Prop :=
  decode (.command 0x0101000512345678) = .ok (.wrcfg 1 0x05 0x12345678) ∧
  decode (.command 0x030000AB00000011) = .ok (.wrbuf 0 0xAB 17) ∧
  decode (.command 0x1201000000000000) = .ok (.start 1 false) ∧
  decode (.command 0x1300000000000000) = .ok .stop ∧
  decode (.command 0x1800000000001000) = .ok (.feed 0 4096) ∧
  decode (.edges 0b01) = .ok .evConsEdge ∧
  decode (.edges 0b10) = .ok .evXferDone ∧
  decode (.output 0x03010000000042000000020000000200) = .ok (.xferStart 1 0x4200 512 512) ∧
  decode (.output 0x06170000000056220000000000000000) = .ok (.setPitch 23 0x5622)

/-- R90: a word that meets no row of the opcode map is answered `ERR_ILLEGAL` and changes nothing else. -/
def Obligations.IllegalWordsAreOnlyAnswered : Prop :=
  ∀ (s : State) rest w ws, s.turns = .host :: rest → s.primeWait = false → s.cmdPort = w :: ws →
    (∀ i p m, commandRow i = some (p, m) → w &&& m ≠ p) →
    step s = .next (answer { s with turns := rest, cmdPort := ws } 0x01 0 0)

/-! ## The step -/

/-- R16, R81, R93, R95: the instruction that a port's bits decode to is the one the step executes, with the turn taken and
the command word gone from the port; a closed port keeps its word (R42). Three of its points are the model's choice: of two
simultaneous edges `EV_CONS_EDGE` runs and the other is left as the very next turn (R93 leaves the order open: log entry 5);
a word on the output port runs as an instruction (log entry 4); HOST's turn at a closed port passes without effect (log
entry 3). -/
def Obligations.StepRunsTheDecodedInstruction : Prop :=
  (∀ (s : State) rest w ws i, s.turns = .host :: rest → s.primeWait = false → s.cmdPort = w :: ws →
    decode (.command w) = .ok i → step s = exec i { s with turns := rest, cmdPort := ws }) ∧
  (∀ (s : State) rest irq i, s.turns = .edges irq :: rest → decode (.edges irq) = .ok i →
    step s = exec i { s with turns := if irq = 0b11 then .edges 0b10 :: rest else rest }) ∧
  (∀ (s : State) rest dw i, s.turns = .output dw :: rest → decode (.output dw) = .ok i →
    step s = exec i { s with turns := rest }) ∧
  (∀ (s : State) rest, s.turns = .host :: rest → s.primeWait = true → step s = .next { s with turns := rest })

/-- R193: a halted block answers every command but `RDREG` with `ERR_HALTED`, takes no step of its own (a turn of one then
passes without effect: the model's choice, log entry 3), lets the events update the arbiter bits, and stays halted until
reset. -/
def Obligations.HaltedBlockOnlyAnswersUntilReset : Prop :=
  ∀ s : State, s.fatal ≠ 0 →
    (∀ i : Instr, i.port = .command → (∀ c r, i ≠ .rdreg c r) → exec i s = .next (answer s 0x05 s.fatal 0)) ∧
    (∀ rest, s.turns = .dispatchXfer :: rest ∨ s.turns = .dispatchCons :: rest ∨ s.turns = .startPhase2 :: rest →
      step s = .next { s with turns := rest }) ∧
    (∃ t, exec .evConsEdge s = .next t ∧ t.consPend = (s.consPend || s.consEn)) ∧
    (∃ t, exec .evXferDone s = .next t ∧ t.xferBusy = false ∧ t.xferPend = (s.xferPend || s.xferBusy)) ∧
    (∀ t, step s = .next t → s.nextTurn ≠ some .reset → t.fatal = s.fatal)

/-- R191: only `INIT` raises a fatal abort, and it then writes the cause and the response and nothing else. -/
def Obligations.OnlyInitRaisesAFatalAbort : Prop :=
  ∀ s t : State, step s = .next t → s.fatal = 0 → t.fatal ≠ 0 →
    (∃ c, Accepts s (.init c)) ∧ (t.fatal = 1 ∨ t.fatal = 2) ∧
    t = { answer { s with turns := s.turns.tail, cmdPort := s.cmdPort.tail } 0x06 t.fatal 0 with fatal := t.fatal }

/-- R100 steps 3 to 7 with the tables of R160 and R48: the first check that fails answers, and changes nothing else. -/
def Obligations.FirstFailingCheckAnswers : Prop :=
  ∀ (s : State) (i : Instr), i.port = .command →
    (¬ HaltCheck s i → exec i s = .next (answer s 0x05 s.fatal 0)) ∧
    (HaltCheck s i → ¬ ContextCheck s i → exec i s = .next (answer s 0x02 0 0)) ∧
    (HaltCheck s i → ContextCheck s i → ¬ RegisterCheck i → exec i s = .next (answer s 0x04 0 0)) ∧
    (HaltCheck s i → ContextCheck s i → RegisterCheck i → ¬ StateCheck s i →
      exec i s = .next (answer s 0x03 0 0)) ∧
    (HaltCheck s i → ContextCheck s i → RegisterCheck i → StateCheck s i → ¬ OffsetCheck s i →
      exec i s = .next (answer s 0x04 0 0))

/-! ## Configuration, diagnostics, lifecycle -/

/-- R161: `WRCFG` stores one configuration register, `CHMASK` without the bits of channels that do not exist. -/
def Obligations.WrcfgWritesOneConfigurationRegister : Prop :=
  ∀ (s : State) c (reg : BitVec 8) (v : Word), Ready s c →
    (0x07 < reg.toNat → exec (.wrcfg c reg v) s = .next (answer s 0x04 0 0)) ∧
    (reg.toNat ≤ 0x07 → (s.ctx c).alloc = true → exec (.wrcfg c reg v) s = .next (answer s 0x03 0 0)) ∧
    (reg.toNat ≤ 0x07 → (s.ctx c).alloc = false →
      ∃ t, exec (.wrcfg c reg v) s = .next t ∧ t = answer { s with ctxs := t.ctxs } 0x00 0 0 ∧
        t.nctx = s.nctx ∧ SameOtherContexts s t c ∧ SameMemory s t ∧
        (reg.toNat = 0 → ∀ j, (readReg t c .chmask).getLsbD j = (decide (j < s.config.nch) && v.getLsbD j)) ∧
        (∀ r, regOf reg = some r → r ≠ .chmask → readReg t c r = v) ∧
        (∀ r, regOf reg ≠ some r → readReg t c r = readReg s c r))

/-- R162: `RDREG` reads every register of the map of R48, halted or not, and refuses every other number. -/
def Obligations.RdregReadsTheRegisterMap : Prop :=
  ∀ (s : State) c, c.toNat < s.nctx →
    (∀ p ∈ registerMap s c, exec (.rdreg c p.1) s = .next (answer s 0x00 p.2 0)) ∧
    (∀ n : BitVec 8, n.toNat ∉ registerNumbers → exec (.rdreg c n) s = .next (answer s 0x04 0 0))

/-- R36, R41: the packings of `FLAGS` and `IRQSTAT`; and that of `ACTIVE` (R39). -/
def Obligations.PackedRegistersHaveTheirLayout : Prop :=
  (∀ k : Context, (flagsWord k).getLsbD 0 = k.alloc ∧ (flagsWord k).getLsbD 1 = k.buffering ∧
    (flagsWord k).getLsbD 2 = k.cbissued ∧
    (flagsWord k).extractLsb' 3 2 =
      (match k.phase with | .idle => 0#2 | .chunkAvail => 1#2 | .uploading => 2#2 | .playing => 3#2) ∧
    (flagsWord k).extractLsb' 5 27 = 0) ∧
  (∀ s : State, (irqstatWord s).getLsbD 0 = s.consEn ∧ (irqstatWord s).getLsbD 1 = s.consPend ∧
    (irqstatWord s).getLsbD 2 = s.xferPend ∧ (irqstatWord s).getLsbD 3 = s.xferBusy ∧
    (irqstatWord s).getLsbD 4 = s.primeWait ∧ (irqstatWord s).extractLsb' 5 27 = 0) ∧
  activeWord none = 0 ∧
  (∀ a : CtxNum, (activeWord (some a)).getLsbD 31 = true ∧ (activeWord (some a)).extractLsb' 8 23 = 0 ∧
    (activeWord (some a)).extractLsb' 0 8 = a)

/-- R163 with the allocation of R164 and its optional input `alloc_ok` (which the model keeps: log entry 13): the steps of
`INIT` in their order, each with everything it changes; a transfer in flight out of the context's RAM, and no other, loses
its source (R78, in the model's own field: log entry 9). -/
def Obligations.InitFollowsItsSteps : Prop :=
  ∀ (s : State) c, Ready s c →
    ((s.ctx c).alloc = true → exec (.init c) s = .next (answer s 0x03 0 0)) ∧
    ((s.ctx c).alloc = false →
      let k := s.ctx c
      let n := popcount (chmaskOf s.config k)
      let fits := 1 ≤ k.capacity.toNat ∧ k.capacity.toNat ≤ s.config.maxCap ∧ s.allocOk = true
      (n = 0 → exec (.init c) s = .next { answer s 0x06 1 0 with fatal := 1 }) ∧
      (n ≠ 0 → 2 ^ 32 ≤ k.interleave.toNat * n → exec (.init c) s = .next (answer s 0x04 0 0)) ∧
      (n ≠ 0 → k.interleave.toNat * n < 2 ^ 32 → ¬ fits →
        exec (.init c) s = .next { answer s 0x06 2 0 with fatal := 2 }) ∧
      (n ≠ 0 → k.interleave.toNat * n < 2 ^ 32 → fits →
        ∃ t, exec (.init c) s = .next t ∧
          t = answer { s with
            ctxs := t.ctxs, vecCons := 1, vecXfer := 2, xferLost := sourceLost s c } 0x00 0 0 ∧
          t.nctx = s.nctx ∧ SameOtherContexts s t c ∧
          t.ctx c = { k with
            chunk := (t.ctx c).chunk, head := 0, tail := 0, length := 0, dbidx := 0, buffering := false,
            cbissued := false, chunkcnt := 0, phase := .idle, alloc := true,
            savedVecCons := s.vecCons, savedVecXfer := s.vecXfer, buf := [] } ∧
          (t.ctx c).chunk.toNat = k.interleave.toNat * n ∧ RingOk (t.ctx c) ∧
          (∀ off, t.bufByte c off = none) ∧ (∀ d off, d ≠ c → t.bufByte d off = s.bufByte d off) ∧
          (∀ a, t.devByte a = s.devByte a)))

/-- R165: `DESTROY` releases the buffer and restores the saved vectors; the configuration and the other registers stay; a
transfer in flight out of the context's RAM, and no other, loses its source (R78, in the model's own field: log entry 9). -/
def Obligations.DestroyReleasesTheContext : Prop :=
  ∀ (s : State) c, Ready s c →
    ((s.ctx c).alloc = false ∨ s.active = some c → exec (.destroy c) s = .next (answer s 0x03 0 0)) ∧
    ((s.ctx c).alloc = true → s.active ≠ some c →
      ∃ t, exec (.destroy c) s = .next t ∧
        t = answer { s with
          ctxs := t.ctxs, vecCons := (s.ctx c).savedVecCons, vecXfer := (s.ctx c).savedVecXfer,
          xferLost := sourceLost s c } 0x00 0 0 ∧
        t.nctx = s.nctx ∧ SameOtherContexts s t c ∧ t.ctx c = { s.ctx c with alloc := false, buf := [] } ∧
        (∀ off, t.bufByte c off = none) ∧ (∀ d off, d ≠ c → t.bufByte d off = s.bufByte d off) ∧
        (∀ a, t.devByte a = s.devByte a))

/-! ## Start and stop -/

/-- R173: `START` while a stream is active and `STOP` while none is answer false and change nothing else. -/
def Obligations.ContentionAnswersFalse : Prop :=
  (∀ (s : State) c resume a, RingReady s c → s.active = some a →
    exec (.start c resume) s = .next (answer s 0x00 0 0)) ∧
  (∀ s : State, s.fatal = 0 → s.active = none → exec .stop s = .next (answer s 0x00 0 0))

/-- R166 step 3: a priming run that begins a transfer suspends `START` with the port closed and no response. -/
def Obligations.StartPrimesAndSuspends : Prop :=
  ∀ (s : State) c, RingReady s c → s.active = none → (s.ctx c).chunk.toNat ≤ (s.ctx c).length.toNat →
    s.xferBusy = false →
    ∃ t, consumptionLogic { s with active := some c } = .ran t true ∧
      exec (.start c false) s = .next { t with primeWait := true } ∧
      t.active = some c ∧ t.rstat = s.rstat ∧ t.rval0 = s.rval0 ∧ t.rval1 = s.rval1

/-- R166 with R168: `START` with `resume = 1` programs the channels in the half last filled, runs the consumption logic
once and keys on, answering true. -/
def Obligations.StartResumesPlayback : Prop :=
  ∀ (s : State) c, RingReady s c → s.active = none →
    ((s.ctx c).length.toNat < (s.ctx c).chunk.toNat ∨ s.xferBusy = false) →
    ∃ t started,
      consumptionLogic { s with active := some c, trace := s.trace ++ wordsOf (startList s c) } = .ran t started ∧
      exec (.start c true) s = .next (answer
        { t with trace := t.trace ++ wordsOf [.keyOn (chmaskOf s.config (s.ctx c))] } 0x00 1 0)

/-- R166: a priming run that underruns does not fail the command: both runs underrun and playback is enabled. -/
def Obligations.StartPlaysOnAfterAPrimingUnderrun : Prop :=
  ∀ (s : State) c, RingReady s c → s.active = none → (s.ctx c).length.toNat < (s.ctx c).chunk.toNat →
    ∃ t, exec (.start c false) s = .next t ∧
      t = answer { s with
        ctxs := t.ctxs, active := some c, consEn := true, consPend := false,
        trace := s.trace ++ wordsOf (underrunList s c ++ startList s c ++ underrunList s c ++
          [.keyOn (chmaskOf s.config (s.ctx c))]) } 0x00 1 0 ∧
      t.nctx = s.nctx ∧ SameOtherContexts s t c ∧ t.ctx c = idled (s.ctx c) ∧ SameMemory s t

/-- R167: `START_PHASE2` is enabled by the cleared `BUFFERING` of the active stream, and then runs `StartTail` and
answers true; where it is not, the turn passes without effect (the model's choice, log entry 3). -/
def Obligations.StartPhase2EndsThePrimingWait : Prop :=
  ∀ (s : State) rest, s.turns = .startPhase2 :: rest →
    (∀ a, s.primeWait = true → s.fatal = 0 → s.active = some a → a.toNat < s.nctx → (s.ctx a).buffering = false →
      ((s.ctx a).length.toNat < (s.ctx a).chunk.toNat ∨ s.xferBusy = false) →
      ∃ t started,
        consumptionLogic { s with
          turns := rest, primeWait := false, trace := s.trace ++ wordsOf (startList s a) } = .ran t started ∧
        step s = .next (answer
          { t with trace := t.trace ++ wordsOf [.keyOn (chmaskOf s.config (s.ctx a))] } 0x00 1 0)) ∧
    (s.primeWait = false ∨ s.fatal ≠ 0 ∨ (∃ a, s.active = some a ∧ (s.ctx a).buffering = true) →
      step s = .next { s with turns := rest })

/-- R169: `STOP` keys off and repoints every active channel at the silent region, and touches nothing else. -/
def Obligations.StopSilencesTheActiveStream : Prop :=
  ∀ (s : State) a, s.fatal = 0 → s.active = some a →
    exec .stop s = .next (answer { s with
      active := none,
      trace := s.trace ++ wordsOf (.keyOff (chmaskOf s.config (s.ctx a)) ::
        eachChannel s a (fun _ ch => [.setStart ch s.config.silentAddr, .setLoop ch s.config.silentAddr])) }
      0x00 1 0)

/-- R12: the active channels are the set bits of the mask below `NCH`, ascending, as many as its popcount. -/
def Obligations.ActiveChannelsAreTheMaskBits : Prop :=
  ∀ (cfg : Config) (k : Context),
    (chansOf cfg k).Pairwise (· < ·) ∧
    (∀ i, i ∈ chansOf cfg k ↔ i < cfg.nch ∧ (chmaskOf cfg k).getLsbD i = true) ∧
    (chansOf cfg k).length = popcount (chmaskOf cfg k)

/-- R170: `SETRATE` writes `RATE`, and reprograms the pitch of every channel of the stream if it is active. -/
def Obligations.SetrateReprogramsThePlayingStream : Prop :=
  ∀ (s : State) c rate, Ready s c →
    ((s.ctx c).alloc = false → exec (.setrate c rate) s = .next (answer s 0x03 0 0)) ∧
    ((s.ctx c).alloc = true →
      ∃ t, exec (.setrate c rate) s = .next t ∧
        t = answer { s with ctxs := t.ctxs, trace := t.trace } 0x00 0 0 ∧
        t.nctx = s.nctx ∧ SameOtherContexts s t c ∧ t.ctx c = { s.ctx c with rate := rate } ∧ SameMemory s t ∧
        (s.active = some c →
          t.trace = s.trace ++ wordsOf (eachChannel s c (fun _ ch => [.setPitch ch (Config.pitchOf rate)]))) ∧
        (s.active ≠ some c → t.trace = s.trace))

/-- R171: `ISACTIVE` is a pure query. -/
def Obligations.IsactiveIsAPureQuery : Prop :=
  ∀ (s : State) c, Ready s c →
    (s.active = some c → exec (.isactive c) s = .next (answer s 0x00 1 0)) ∧
    (s.active ≠ some c → exec (.isactive c) s = .next (answer s 0x00 0 0))

/-! ## The ring buffer -/

/-- R114, R115: `REFLEN` answers the free space and `FEEDPTR` the offset `HEAD` and the contiguous run; both only answer. -/
def Obligations.FreeSpaceQueriesAnswer : Prop :=
  ∀ (s : State) c, Ready s c →
    ((s.ctx c).alloc = false → exec (.reflen c) s = .next (answer s 0x03 0 0) ∧
      exec (.feedptr c) s = .next (answer s 0x03 0 0)) ∧
    ((s.ctx c).alloc = true → RingOk (s.ctx c) →
      (∃ v, exec (.reflen c) s = .next (answer s 0x00 v 0) ∧
        v.toNat + (s.ctx c).length.toNat = (s.ctx c).capacity.toNat) ∧
      (∃ v, exec (.feedptr c) s = .next (answer s 0x00 (s.ctx c).head v) ∧
        v.toNat = min ((s.ctx c).capacity.toNat - (s.ctx c).length.toNat)
          ((s.ctx c).capacity.toNat - (s.ctx c).head.toNat) ∧
        (v = 0 ↔ (s.ctx c).length = (s.ctx c).capacity)))

/-- R116 with `commit` of R111: `FEED` commits the clamped count, advances `HEAD` modulo the capacity, and clears
`CBISSUED` iff the new length is above the threshold. -/
def Obligations.FeedCommitsTheClampedCount : Prop :=
  ∀ (s : State) c n, Ready s c →
    ((s.ctx c).alloc = false → exec (.feed c n) s = .next (answer s 0x03 0 0)) ∧
    ((s.ctx c).alloc = true → RingOk (s.ctx c) →
      let k := s.ctx c
      let m := min n.toNat (k.capacity.toNat - k.length.toNat)
      ∃ t, exec (.feed c n) s = .next t ∧
        t = answer { s with ctxs := t.ctxs } 0x00 t.rval0 0 ∧ t.rval0.toNat = m ∧
        t.nctx = s.nctx ∧ SameOtherContexts s t c ∧ SameMemory s t ∧
        t.ctx c = { k with
          head := (t.ctx c).head, length := (t.ctx c).length, cbissued := (t.ctx c).cbissued } ∧
        (t.ctx c).head.toNat = (k.head.toNat + m) % k.capacity.toNat ∧
        (t.ctx c).length.toNat = k.length.toNat + m ∧
        (t.ctx c).cbissued = (if k.thresh.toNat < k.length.toNat + m then false else k.cbissued) ∧
        RingOk (t.ctx c))

/-- R117 with `MemWrite` of R63: `WRBUF` stores one byte at its offset and moves no register of the ring; the write joins
what a transfer in flight out of that RAM may read, and is recorded for no other (R78, in the model's own field: log
entry 9). -/
def Obligations.WrbufStoresOneByte : Prop :=
  ∀ (s : State) c byte offset, Ready s c →
    ((s.ctx c).alloc = false → exec (.wrbuf c byte offset) s = .next (answer s 0x03 0 0)) ∧
    ((s.ctx c).alloc = true → (s.ctx c).capacity.toNat ≤ offset.toNat →
      exec (.wrbuf c byte offset) s = .next (answer s 0x04 0 0)) ∧
    ((s.ctx c).alloc = true → offset.toNat < (s.ctx c).capacity.toNat →
      ∃ t, exec (.wrbuf c byte offset) s = .next t ∧
        t = answer { s with
          ctxs := t.ctxs,
          xferWrites := if s.xferBusy = true ∧ s.xferCtx = c then s.xferWrites ++ [(offset.toNat, byte)]
            else s.xferWrites } 0x00 0 0 ∧
        t.nctx = s.nctx ∧ SameOtherContexts s t c ∧ t.ctx c = { s.ctx c with buf := (t.ctx c).buf } ∧
        t.bufByte c offset.toNat = some byte ∧
        (∀ off, off ≠ offset.toNat → t.bufByte c off = s.bufByte c off) ∧
        (∀ d off, d ≠ c → t.bufByte d off = s.bufByte d off) ∧ (∀ a, t.devByte a = s.devByte a))

/-- R118 with `MemRead` of R62: `RDBUF` answers the byte last written at its offset, or some byte where none was, the count
of free values drawn then going up in the model's own field (log entry 8). -/
def Obligations.RdbufAnswersTheByte : Prop :=
  ∀ (s : State) c offset, Ready s c →
    ((s.ctx c).alloc = false → exec (.rdbuf c offset) s = .next (answer s 0x03 0 0)) ∧
    ((s.ctx c).alloc = true → (s.ctx c).capacity.toNat ≤ offset.toNat →
      exec (.rdbuf c offset) s = .next (answer s 0x04 0 0)) ∧
    ((s.ctx c).alloc = true → offset.toNat < (s.ctx c).capacity.toNat →
      (∀ v, s.bufByte c offset.toNat = some v →
        exec (.rdbuf c offset) s = .next (answer s 0x00 (v.setWidth 32) 0)) ∧
      (s.bufByte c offset.toNat = none →
        ∃ v : Byte, exec (.rdbuf c offset) s =
          .next { answer s 0x00 (v.setWidth 32) 0 with freeCount := s.freeCount + 1 }))

/-- R62: `RDBUF` after `WRBUF` at the same offset answers the byte written. -/
def Obligations.RdbufReadsWhatWrbufWrote : Prop :=
  ∀ (s : State) c byte offset, RingReady s c → offset.toNat < (s.ctx c).capacity.toNat →
    ∃ t u, exec (.wrbuf c byte offset) s = .next t ∧ exec (.rdbuf c offset) t = .next u ∧
      u.rstat = 0x00 ∧ u.rval0 = byte.setWidth 32 ∧ u.rval1 = 0 ∧ SameMemory t u

/-- R120: a sequence of `FEED`s on one context commits the sum of its sizes, clamped once to the free space. -/
def Obligations.FeedSequencesAccumulate : Prop :=
  ∀ (s : State) c (ns : List Word), RingReady s c → RingOk (s.ctx c) →
    ∃ t, feedAll c ns s = .next t ∧ RingOk (t.ctx c) ∧ (t.ctx c).tail = (s.ctx c).tail ∧
      (t.ctx c).length.toNat =
        min (s.ctx c).capacity.toNat ((s.ctx c).length.toNat + (ns.map (·.toNat)).sum)

/-- R120: feeding `j` chunks into an empty ring and consuming `j` chunks leaves it empty, `TAIL` at `HEAD`, wherever the
ring stood. -/
def Obligations.FeedingThenConsumingEmptiesTheRing : Prop :=
  ∀ (k : Context) (j : Nat) (n : Word), k.alloc = true → RingOk k → k.length = 0 →
    n.toNat = j * k.chunk.toNat → n.toNat ≤ k.capacity.toNat →
    (Nat.iterate consume j (commit k n)).length = 0 ∧
    (Nat.iterate consume j (commit k n)).tail = (Nat.iterate consume j (commit k n)).head ∧
    RingOk (Nat.iterate consume j (commit k n))

/-! ## The scheduler -/

/-- R141: an edge is latched iff the consumption interrupt is enabled, and changes nothing else. -/
def Obligations.EdgesLatchOnlyWhileEnabled : Prop :=
  ∀ s : State, exec .evConsEdge s = .next { s with consPend := s.consPend || s.consEn }

/-- R134: an underrun calls the callback, if registered, and enables the interrupt again; nothing else changes, but that
`PLAYING` became `IDLE` at entry (R143). -/
def Obligations.UnderrunReenablesTheInterrupt : Prop :=
  ∀ (s : State) a, s.active = some a → a.toNat < s.nctx → (s.ctx a).length.toNat < (s.ctx a).chunk.toNat →
    ∃ t, consumptionLogic s = .ran t false ∧
      t = { s with
        ctxs := t.ctxs, consEn := true, consPend := false, trace := s.trace ++ wordsOf (underrunList s a) } ∧
      t.nctx = s.nctx ∧ SameOtherContexts s t a ∧ t.ctx a = idled (s.ctx a) ∧ SameMemory s t

/-- R135, R136 with `consume` of R112: what taking a chunk does to the registers and flags of the context. -/
def Obligations.ConsumptionTakesOneChunk : Prop :=
  ∀ (s : State) a, s.active = some a → a.toNat < s.nctx → (s.ctx a).alloc = true → RingOk (s.ctx a) →
    (s.ctx a).chunk.toNat ≤ (s.ctx a).length.toNat → s.xferBusy = false →
    ∃ t, consumptionLogic s = .ran t true ∧ SameOtherContexts s t a ∧ SameMemory s t ∧ t.nctx = s.nctx ∧
      t.ctx a = { s.ctx a with
        tail := (t.ctx a).tail, length := (t.ctx a).length, dbidx := (s.ctx a).dbidx ^^^ 1, buffering := true,
        chunkcnt := (s.ctx a).chunkcnt + 1, phase := .uploading,
        cbissued := (s.ctx a).cbissued ||
          decide ((s.ctx a).length.toNat - (s.ctx a).chunk.toNat ≤ (s.ctx a).thresh.toNat) } ∧
      (t.ctx a).tail.toNat = ((s.ctx a).tail.toNat + (s.ctx a).chunk.toNat) % (s.ctx a).capacity.toNat ∧
      (t.ctx a).length.toNat + (s.ctx a).chunk.toNat = (s.ctx a).length.toNat ∧ RingOk (t.ctx a)

/-- R136, R137, R138, R145: the words a run that takes a chunk emits, in order, and the transfer it puts in flight. With the
transfer record of R138 it fixes the model's own fields of log entry 9 (a design choice, for R78): the source RAM is noted as
it is now (`xferSnap`), with no write to it yet (`xferWrites`) and the source not lost (`xferLost`). -/
def Obligations.ConsumptionReprogramsAndUploads : Prop :=
  ∀ (s : State) a, s.active = some a → a.toNat < s.nctx →
    (s.ctx a).chunk.toNat ≤ (s.ctx a).length.toNat → s.xferBusy = false →
    ∃ t, consumptionLogic s = .ran t true ∧
      t = { s with
        ctxs := t.ctxs, consEn := false, consPend := false,
        trace := s.trace ++ wordsOf (uploadList s a),
        xferCtx := a, xferDst := sliceAddr (s.ctx a) ((s.ctx a).dbidx ^^^ 1).toNat 0,
        xferSrc := (s.ctx a).tail, xferLen := (s.ctx a).chunk, xferBusy := true,
        xferSnap := (s.ctx a).buf, xferWrites := [], xferLost := false }

/-- R139: a run that would take a chunk while a transfer is in flight stops the model, with only step 1 done; from
`DISPATCH_CONS`, from either run of `START` and from `START_PHASE2` alike. -/
def Obligations.TransferOverlapStops : Prop :=
  ∀ (s : State) a, a.toNat < s.nctx → (s.ctx a).chunk.toNat ≤ (s.ctx a).length.toNat → s.xferBusy = true →
    (s.active = some a → ∃ t, consumptionLogic s = .overlap t ∧
      t = { s with ctxs := t.ctxs, consEn := false, consPend := false } ∧ SameOtherContexts s t a ∧
      t.ctx a = idled (s.ctx a)) ∧
    (s.active = some a → ConsEnabled s → ∀ rest, s.turns = .dispatchCons :: rest →
      ∃ t, consumptionLogic { s with turns := rest } = .overlap t ∧ step s = .fault (.xferOverlap t)) ∧
    (s.active = none → RingReady s a →
      (∃ t, consumptionLogic { s with active := some a } = .overlap t ∧
        exec (.start a false) s = .fault (.xferOverlap t)) ∧
      (∃ t, consumptionLogic { s with active := some a, trace := s.trace ++ wordsOf (startList s a) } = .overlap t ∧
        exec (.start a true) s = .fault (.xferOverlap t))) ∧
    (s.active = some a → s.primeWait = true → s.fatal = 0 → (s.ctx a).buffering = false →
      ∀ rest, s.turns = .startPhase2 :: rest →
      ∃ t, consumptionLogic { s with
          turns := rest, primeWait := false, trace := s.trace ++ wordsOf (startList s a) } = .overlap t ∧
        step s = .fault (.xferOverlap t))

/-- R142, R140: `DISPATCH_CONS` runs the consumption logic when enabled, which only acknowledges with no stream active;
otherwise the turn passes without effect (the model's choice, log entry 3). -/
def Obligations.DispatchConsRunsTheConsumptionLogic : Prop :=
  ∀ (s : State) rest, s.turns = .dispatchCons :: rest →
    (ConsEnabled s → ∀ t started, consumptionLogic { s with turns := rest } = .ran t started → step s = .next t) ∧
    (ConsEnabled s → s.active = none →
      step s = .next { s with turns := rest, consEn := false, consPend := false }) ∧
    (¬ ConsEnabled s → step s = .next { s with turns := rest })

/-- R198: the consumption interrupt becomes enabled only by `DISPATCH_XFER` or by an underrun of the active stream. -/
def Obligations.OnlyCompletionOrUnderrunEnablesTheInterrupt : Prop :=
  ∀ s t : State, step s = .next t → s.consEn = false → t.consEn = true →
    (s.nextTurn = some .dispatchXfer ∧ XferEnabled s) ∨
    (((∃ c resume, Accepts s (.start c resume)) ∨ s.nextTurn = some .startPhase2) ∧
      ∃ a, t.active = some a ∧ (t.ctx a).length.toNat < (t.ctx a).chunk.toNat)

/-- R152: once the consumption interrupt has disabled itself it stays disabled, and no edge can bring it on, over any run
in which the block neither takes the completion interrupt nor starts a stream nor is reset. -/
def Obligations.HandshakeHoldsUntilCompletion : Prop :=
  ∀ (n : Nat) (s t : State), s.consEn = false → s.consPend = false →
    (∀ u ∈ s.turns, u ≠ .dispatchXfer ∧ u ≠ .startPhase2 ∧ u ≠ .reset) →
    (∀ w ∈ s.cmdPort, ∀ c resume, decode (.command w) ≠ .ok (.start c resume)) →
    runSteps n s = .next t → t.consEn = false ∧ t.consPend = false ∧ ¬ ConsEnabled t

/-! ## Completion -/

/-- R150 with R67: `EV_XFER_DONE` lands byte `i` at `trunc32(XFER_DST + i)` for every byte of the transfer, and turns
`XFER_BUSY` into `XFER_PEND`; no other byte and no context changes. What byte `i` is, `payload`, is stated beside (R78, log
entry 9). -/
def Obligations.XferDoneLandsTheTransfer : Prop :=
  ∀ s : State, s.xferBusy = true →
    ∃ t, exec .evXferDone s = .next t ∧
      t = { s with devmem := t.devmem, freeCount := t.freeCount, xferBusy := false, xferPend := true } ∧
      (∀ i < s.xferLen.toNat, t.devByte (trunc32 (s.xferDst.toNat + i)).toNat = some (payload s i)) ∧
      (∀ a, (∀ i < s.xferLen.toNat, (trunc32 (s.xferDst.toNat + i)).toNat ≠ a) → t.devByte a = s.devByte a) ∧
      (∀ c off, t.bufByte c off = s.bufByte c off)

/-- R78, R79: a byte of the transfer is the one its offset held at the start, or one `WRBUF` has written there since; after
`INIT` or `DESTROY` of the source, past the end of the ring, or where the offset held no defined value, it is a free value
(the model's form of "any value": log entries 8, 9 and 11). -/
def Obligations.PayloadIsTheByteOrOneWrittenSince : Prop :=
  ∀ (s : State) (i : Nat),
    (∀ v, s.xferLost = false → s.xferSrc.toNat + i < (s.ctx s.xferCtx).capacity.toNat →
      s.xferSnap.read (s.xferSrc.toNat + i) = some v →
      (payload s i = v ∨ (s.xferSrc.toNat + i, payload s i) ∈ s.xferWrites) ∧
      ((∀ p ∈ s.xferWrites, p.1 ≠ s.xferSrc.toNat + i) → payload s i = v)) ∧
    (s.xferLost = true ∨ (s.ctx s.xferCtx).capacity.toNat ≤ s.xferSrc.toNat + i ∨
        s.xferSnap.read (s.xferSrc.toNat + i) = none →
      payload s i = Config.freeByte (s.freeCount + i))

/-- R137, R138, R150, R67, R78: the bytes consumed from the ring land, in order, in the fill half of the double buffer. -/
def Obligations.UploadDeliversTheConsumedBytes : Prop :=
  ∀ (s t : State) a, s.active = some a → a.toNat < s.nctx → (s.ctx a).chunk.toNat ≤ (s.ctx a).length.toNat →
    (s.ctx a).tail.toNat + (s.ctx a).chunk.toNat ≤ (s.ctx a).capacity.toNat → s.xferBusy = false →
    consumptionLogic s = .ran t true →
    ∃ u, exec .evXferDone t = .next u ∧ u.xferBusy = false ∧ u.xferPend = true ∧
      ∀ i < (s.ctx a).chunk.toNat, ∀ v, s.bufByte a ((s.ctx a).tail.toNat + i) = some v →
        u.devByte (trunc32 ((s.ctx a).devbase.toNat +
          ((s.ctx a).dbidx ^^^ 1).toNat * (s.ctx a).chunk.toNat + i)).toNat = some v

/-- R151: taking the completion interrupt enables the consumption interrupt and clears `BUFFERING` of the active stream,
whose phase goes from `UPLOADING` to `PLAYING`; with no stream active there is no context to change (R153). Where it is not
enabled the turn passes without effect (the model's choice, log entry 3). -/
def Obligations.DispatchXferCompletesTheHandshake : Prop :=
  ∀ (s : State) rest, s.turns = .dispatchXfer :: rest →
    (XferEnabled s → ∃ t, step s = .next t ∧
      t = { s with turns := rest, ctxs := t.ctxs, xferPend := false, consEn := true } ∧ t.nctx = s.nctx ∧
      SameMemory s t ∧
      (s.active = none → t.ctxs = s.ctxs) ∧
      (∀ a, s.active = some a → a.toNat < s.nctx → SameOtherContexts s t a ∧
        t.ctx a = { s.ctx a with
          buffering := false, phase := if (s.ctx a).phase = .uploading then .playing else (s.ctx a).phase })) ∧
    (¬ XferEnabled s → step s = .next { s with turns := rest })

/-- R154, R142, R199: with both interrupts pending the completion interrupt is taken first, and the other is enabled next.
`DISPATCH_CONS` is not enabled before it, and a turn of it then passes without effect (the model's choice, log entry 3). -/
def Obligations.CompletionIsTakenFirst : Prop :=
  ∀ (s : State) rest, XferEnabled s → s.consPend = true → s.consEn = true → s.vecCons = 1 →
    (s.turns = .dispatchCons :: rest → step s = .next { s with turns := rest }) ∧
    (s.turns = .dispatchXfer :: rest → ∃ t, step s = .next t ∧ t.consPend = s.consPend ∧ ConsEnabled t)

/-- R93: edges on both lines at one instant may be taken in either order: the machine comes to the same state. -/
def Obligations.SimultaneousEventsCommute : Prop :=
  ∀ s : State, ∃ t u v, exec .evConsEdge s = .next t ∧ exec .evXferDone t = .next v ∧
    exec .evXferDone s = .next u ∧ exec .evConsEdge u = .next v

/-! ## Output words -/

/-- R95, R96: an output word is appended to the trace and changes nothing else; its kind, channel or context and
arguments stand where the table says. That such a word is an instruction of its own is the model's choice (log entry 4). -/
def Obligations.OutputWordsAreAppendedToTheTrace : Prop :=
  (∀ (i : Instr) (s : State), i.port = .output →
    ∃ dw, encode i = .output dw ∧ exec i s = .next { s with trace := s.trace ++ [dw] } ∧ dwZero dw = 0) ∧
  (∀ ch a, encode (.setLoop ch a) = .output (outputWord 0x01 ch a 0 0)) ∧
  (∀ a, encode (.setIrqAddr a) = .output (outputWord 0x02 0 a 0 0)) ∧
  (∀ c d o l, encode (.xferStart c d o l) = .output (outputWord 0x03 c d o l)) ∧
  (∀ m, encode (.keyOn m) = .output (outputWord 0x04 0 m 0 0)) ∧
  (∀ m, encode (.keyOff m) = .output (outputWord 0x05 0 m 0 0)) ∧
  (∀ ch p, encode (.setPitch ch p) = .output (outputWord 0x06 ch p 0 0)) ∧
  (∀ ch e, encode (.setEnv ch e) = .output (outputWord 0x07 ch e 0 0)) ∧
  (∀ ch a, encode (.setStart ch a) = .output (outputWord 0x08 ch a 0 0)) ∧
  (∀ c h, encode (.cbRefill c h) = .output (outputWord 0x10 c h 0 0)) ∧
  (∀ c h, encode (.cbUnderrun c h) = .output (outputWord 0x11 c h 0 0)) ∧
  (∀ n ch a b c, dwKind (outputWord n ch a b c) = n ∧ dwCh (outputWord n ch a b c) = ch ∧
    dwA (outputWord n ch a b c) = a ∧ dwB (outputWord n ch a b c) = b ∧ dwC (outputWord n ch a b c) = c)

/-- R47: the trace only grows, except that reset empties it (R51). -/
def Obligations.TraceOnlyGrows : Prop :=
  ∀ s t : State, step s = .next t → s.nextTurn ≠ some .reset → ∃ ws, t.trace = s.trace ++ ws

/-- R97: the block emits no word but the ten kinds, each naming an existing channel or context; words put on the output
port by a turn of their own are the model's (log entry 4) and are premised to be such words. -/
def Obligations.TraceHoldsOnlyLegalWords : Prop :=
  ∀ s t : State, TraceInv s → ActiveInv s → step s = .next t → TraceInv t

/-! ## Reset and invariants -/

/-- R51: what the hardware reset leaves, whatever state it strikes; reset as the machine's first state is the same table.
The transfer record, which the table calls unspecified, is not spoken of; that a
reset may strike a running block as a turn is the model's choice (log entry 14). -/
def Obligations.ResetLeavesTheResetTable : Prop :=
  (∀ (s : State) rest, s.turns = .reset :: rest → step s = .next (hardwareReset { s with turns := rest })) ∧
  ∀ s : State, (s = State.reset ∨ ∃ u, s = hardwareReset u) →
    (∀ k ∈ s.ctxs, k.chmask = 0 ∧ k.alloc = false ∧ k.buffering = false ∧ k.cbissued = false ∧ k.phase = .idle) ∧
    (∀ c off, s.bufByte c off = none) ∧
    s.active = none ∧ s.consEn = false ∧ s.consPend = false ∧ s.xferPend = false ∧ s.xferBusy = false ∧
    s.primeWait = false ∧ s.fatal = 0 ∧ s.vecCons = 0 ∧ s.vecXfer = 0 ∧
    s.rstat = 0 ∧ s.rval0 = 0 ∧ s.rval1 = 0 ∧ s.trace = [] ∧
    (∀ c r, readReg s c r = 0)

/-- The invariants below hold right after reset. -/
def Obligations.ResetMeetsTheInvariants : Prop :=
  RingInv State.reset ∧ PhaseInv State.reset ∧ RefillInv State.reset ∧ MaskInv State.reset ∧
  CreatedInv State.reset ∧ ArbiterInv State.reset ∧ ActiveInv State.reset ∧ MemoryInv State.reset ∧
  TraceInv State.reset

/-- R23: every step keeps the ring invariants. -/
def Obligations.RingInvariantIsKept : Prop := ∀ s t : State, RingInv s → step s = .next t → RingInv t

/-- R25: every step keeps the phase invariants. -/
def Obligations.PhaseInvariantIsKept : Prop := ∀ s t : State, PhaseInv s → step s = .next t → PhaseInv t

/-- R35: every step keeps the refill-flag invariant. -/
def Obligations.RefillInvariantIsKept : Prop := ∀ s t : State, RefillInv s → step s = .next t → RefillInv t

/-- R27, R37, R163: every step keeps the hardwired-zero mask bits, and the chunk size and capacity that `INIT` validated. -/
def Obligations.ConfigurationInvariantIsKept : Prop :=
  ∀ s t : State, MaskInv s → CreatedInv s → step s = .next t → MaskInv t ∧ CreatedInv t

/-- R198: every step keeps the pending bit below the enable bit. -/
def Obligations.ArbiterInvariantIsKept : Prop := ∀ s t : State, ArbiterInv s → step s = .next t → ArbiterInv t

/-- R172, R42: every step keeps the active stream initialised, and a suspended `START` active. -/
def Obligations.ActiveInvariantIsKept : Prop := ∀ s t : State, ActiveInv s → step s = .next t → ActiveInv t

/-- R60, R61: every step keeps the memories canonical and inside their address spaces; the canonical form is the model's
(log entry 10), and so is the noted source RAM (log entry 9). -/
def Obligations.MemoryInvariantIsKept : Prop := ∀ s t : State, MemoryInv s → step s = .next t → MemoryInv t

/-! ## Rules over the whole machine -/

/-- R39: only `START` binds a stream, to its own context and only where none was, and only `STOP` releases one. -/
def Obligations.OnlyStartAndStopMoveTheActiveStream : Prop :=
  ∀ s t : State, step s = .next t → t.active ≠ s.active → s.nextTurn ≠ some .reset →
    (∃ c resume, Accepts s (.start c resume) ∧ s.active = none ∧ t.active = some c) ∨
    (Accepts s .stop ∧ t.active = none)

/-- R75, R49: a command changes no context but the one it names. -/
def Obligations.CommandsTouchOnlyTheirContext : Prop :=
  ∀ (i : Instr) (s t : State) c, i.namedCtx = some c → exec i s = .next t → SameOtherContexts s t c

/-- R7: no step changes a parameter or the number of contexts, which the model holds in State (log entry 6). -/
def Obligations.ParametersNeverChange : Prop :=
  ∀ s t : State, step s = .next t → t.config = s.config ∧ t.nctx = s.nctx
end

