-- ==== Sys2Proof/Laws/Memory.lean ====
section
/-! SUPPORT. Laws/Memory.lean: reading after writing, and that writing keeps the canonical form. -/

namespace Sys2Proof.Machine

@[simp] theorem memory_read_nil (a : Nat) : Memory.read [] a = none := rfl

@[simp] theorem memory_wf_nil : Memory.wf [] = true := rfl

/-- A read of the address just written gives the byte written. -/
theorem memory_read_write_same (m : Memory) (a : Nat) (v : Byte) : (m.write a v).read a = some v := by
  induction m with
  | nil => simp [Memory.write, Memory.read]
  | cons p m ih =>
    obtain ⟨b, w⟩ := p
    unfold Memory.write
    split
    · simp [Memory.read]
    · split
      · simp [Memory.read]
      · simp_all [Memory.read]

/-- A write leaves what every other address reads as. -/
theorem memory_read_write_other (m : Memory) (a b : Nat) (v : Byte) (h : b ≠ a) :
    (m.write a v).read b = m.read b := by
  induction m with
  | nil => simp [Memory.write, Memory.read, Memory.unlisted, h]
  | cons p m ih =>
    obtain ⟨c, w⟩ := p
    unfold Memory.write
    split
    · simp [Memory.read, h]
    · split
      · subst_vars; simp [Memory.read, h]
      · simp only [Memory.read, ih]

/-- The two laws of reading after a write in one. -/
theorem memory_read_write (m : Memory) (a b : Nat) (v : Byte) :
    (m.write a v).read b = if b = a then some v else m.read b := by
  split
  · subst_vars; exact memory_read_write_same m _ v
  · exact memory_read_write_other m a b v ‹_›

/-- The entries of a written memory: the new one and old ones. -/
theorem memory_mem_write (m : Memory) (a : Nat) (v : Byte) (p : Nat × Byte) (h : p ∈ m.write a v) :
    p = (a, v) ∨ p ∈ m := by
  induction m with
  | nil => simpa [Memory.write] using h
  | cons q m ih =>
    obtain ⟨b, w⟩ := q
    unfold Memory.write at h
    split at h
    · simpa using h
    · split at h
      · simp only [List.mem_cons] at h ⊢
        exact h.imp_right Or.inr
      · simp only [List.mem_cons] at h ⊢
        rcases h with h | h
        · exact .inr (.inl h)
        · exact (ih h).imp_right Or.inr

/-- The first entry of a canonical memory lies below the rest, which is canonical. -/
theorem memory_wf_cons (a : Nat) (v : Byte) (m : Memory) :
    Memory.wf ((a, v) :: m) = true ↔ (∀ q ∈ m.head?, a < q.1) ∧ m.wf = true := by
  cases m with
  | nil => simp [Memory.wf]
  | cons q m => simp [Memory.wf]

/-- The lowest address of a written memory. -/
theorem memory_head_write (m : Memory) (a : Nat) (v : Byte) (q : Nat × Byte) (h : q ∈ (m.write a v).head?) :
    q.1 = a ∨ q ∈ m.head? := by
  cases m with
  | nil => simp [Memory.write] at h; simp [← h]
  | cons p m =>
    obtain ⟨b, w⟩ := p
    unfold Memory.write at h
    split at h
    · simp at h; simp [← h]
    · split at h
      · simp at h; simp [← h]
      · simp at h; simp [← h]

/-- Every write keeps the canonical form. -/
theorem memory_write_wf (m : Memory) (a : Nat) (v : Byte) (h : m.wf = true) : (m.write a v).wf = true := by
  induction m with
  | nil => rfl
  | cons p m ih =>
    obtain ⟨b, w⟩ := p
    have hm := (memory_wf_cons b w m).mp h
    unfold Memory.write
    split
    · exact (memory_wf_cons _ _ _).mpr ⟨by simpa using ‹a < b›, h⟩
    · split
      · subst_vars; exact (memory_wf_cons _ _ _).mpr hm
      · refine (memory_wf_cons _ _ _).mpr ⟨fun q hq => ?_, ih hm.2⟩
        rcases memory_head_write m a v q hq with e | e
        · omega
        · exact hm.1 q e

/-- Every memory of the state after reset is canonical. -/
theorem reset_memory_wf :
    State.reset.devmem.wf = true ∧ State.reset.xferSnap.wf = true ∧ ∀ k ∈ State.reset.ctxs, k.buf.wf = true := by
  decide

end Sys2Proof.Machine
end

