-- ==== Sys2Proof/Laws/State.lean ====
section
/-! SUPPORT. Laws/State.lean: one lemma per field per update of the state, each true by rfl, so that no later proof
unfolds a record update. -/

namespace Sys2Proof.Machine

@[simp] theorem State.respond_ctxs (s : State) (st : Status) (a b : Word) : (s.respond st a b).ctxs = s.ctxs := rfl
@[simp] theorem State.respond_active (s : State) (st : Status) (a b : Word) : (s.respond st a b).active = s.active := rfl
@[simp] theorem State.respond_consEn (s : State) (st : Status) (a b : Word) : (s.respond st a b).consEn = s.consEn := rfl
@[simp] theorem State.respond_consPend (s : State) (st : Status) (a b : Word) : (s.respond st a b).consPend = s.consPend := rfl
@[simp] theorem State.respond_xferPend (s : State) (st : Status) (a b : Word) : (s.respond st a b).xferPend = s.xferPend := rfl
@[simp] theorem State.respond_xferBusy (s : State) (st : Status) (a b : Word) : (s.respond st a b).xferBusy = s.xferBusy := rfl
@[simp] theorem State.respond_primeWait (s : State) (st : Status) (a b : Word) : (s.respond st a b).primeWait = s.primeWait := rfl
@[simp] theorem State.respond_fatal (s : State) (st : Status) (a b : Word) : (s.respond st a b).fatal = s.fatal := rfl
@[simp] theorem State.respond_vecCons (s : State) (st : Status) (a b : Word) : (s.respond st a b).vecCons = s.vecCons := rfl
@[simp] theorem State.respond_vecXfer (s : State) (st : Status) (a b : Word) : (s.respond st a b).vecXfer = s.vecXfer := rfl
@[simp] theorem State.respond_xferCtx (s : State) (st : Status) (a b : Word) : (s.respond st a b).xferCtx = s.xferCtx := rfl
@[simp] theorem State.respond_xferDst (s : State) (st : Status) (a b : Word) : (s.respond st a b).xferDst = s.xferDst := rfl
@[simp] theorem State.respond_xferSrc (s : State) (st : Status) (a b : Word) : (s.respond st a b).xferSrc = s.xferSrc := rfl
@[simp] theorem State.respond_xferLen (s : State) (st : Status) (a b : Word) : (s.respond st a b).xferLen = s.xferLen := rfl
@[simp] theorem State.respond_rstat (s : State) (st : Status) (a b : Word) : (s.respond st a b).rstat = statusCode st := rfl
@[simp] theorem State.respond_rval0 (s : State) (st : Status) (a b : Word) : (s.respond st a b).rval0 = a := rfl
@[simp] theorem State.respond_rval1 (s : State) (st : Status) (a b : Word) : (s.respond st a b).rval1 = b := rfl
@[simp] theorem State.respond_trace (s : State) (st : Status) (a b : Word) : (s.respond st a b).trace = s.trace := rfl
@[simp] theorem State.respond_devmem (s : State) (st : Status) (a b : Word) : (s.respond st a b).devmem = s.devmem := rfl
@[simp] theorem State.respond_config (s : State) (st : Status) (a b : Word) : (s.respond st a b).config = s.config := rfl
@[simp] theorem State.respond_turns (s : State) (st : Status) (a b : Word) : (s.respond st a b).turns = s.turns := rfl
@[simp] theorem State.respond_cmdPort (s : State) (st : Status) (a b : Word) : (s.respond st a b).cmdPort = s.cmdPort := rfl
@[simp] theorem State.respond_allocOk (s : State) (st : Status) (a b : Word) : (s.respond st a b).allocOk = s.allocOk := rfl
@[simp] theorem State.respond_xferSnap (s : State) (st : Status) (a b : Word) : (s.respond st a b).xferSnap = s.xferSnap := rfl
@[simp] theorem State.respond_xferWrites (s : State) (st : Status) (a b : Word) : (s.respond st a b).xferWrites = s.xferWrites := rfl
@[simp] theorem State.respond_xferLost (s : State) (st : Status) (a b : Word) : (s.respond st a b).xferLost = s.xferLost := rfl
@[simp] theorem State.respond_freeCount (s : State) (st : Status) (a b : Word) : (s.respond st a b).freeCount = s.freeCount := rfl

@[simp] theorem State.emitAll_ctxs (s : State) (ws : List OutputWord) : (s.emitAll ws).ctxs = s.ctxs := rfl
@[simp] theorem State.emitAll_active (s : State) (ws : List OutputWord) : (s.emitAll ws).active = s.active := rfl
@[simp] theorem State.emitAll_consEn (s : State) (ws : List OutputWord) : (s.emitAll ws).consEn = s.consEn := rfl
@[simp] theorem State.emitAll_consPend (s : State) (ws : List OutputWord) : (s.emitAll ws).consPend = s.consPend := rfl
@[simp] theorem State.emitAll_xferPend (s : State) (ws : List OutputWord) : (s.emitAll ws).xferPend = s.xferPend := rfl
@[simp] theorem State.emitAll_xferBusy (s : State) (ws : List OutputWord) : (s.emitAll ws).xferBusy = s.xferBusy := rfl
@[simp] theorem State.emitAll_primeWait (s : State) (ws : List OutputWord) : (s.emitAll ws).primeWait = s.primeWait := rfl
@[simp] theorem State.emitAll_fatal (s : State) (ws : List OutputWord) : (s.emitAll ws).fatal = s.fatal := rfl
@[simp] theorem State.emitAll_vecCons (s : State) (ws : List OutputWord) : (s.emitAll ws).vecCons = s.vecCons := rfl
@[simp] theorem State.emitAll_vecXfer (s : State) (ws : List OutputWord) : (s.emitAll ws).vecXfer = s.vecXfer := rfl
@[simp] theorem State.emitAll_xferCtx (s : State) (ws : List OutputWord) : (s.emitAll ws).xferCtx = s.xferCtx := rfl
@[simp] theorem State.emitAll_xferDst (s : State) (ws : List OutputWord) : (s.emitAll ws).xferDst = s.xferDst := rfl
@[simp] theorem State.emitAll_xferSrc (s : State) (ws : List OutputWord) : (s.emitAll ws).xferSrc = s.xferSrc := rfl
@[simp] theorem State.emitAll_xferLen (s : State) (ws : List OutputWord) : (s.emitAll ws).xferLen = s.xferLen := rfl
@[simp] theorem State.emitAll_rstat (s : State) (ws : List OutputWord) : (s.emitAll ws).rstat = s.rstat := rfl
@[simp] theorem State.emitAll_rval0 (s : State) (ws : List OutputWord) : (s.emitAll ws).rval0 = s.rval0 := rfl
@[simp] theorem State.emitAll_rval1 (s : State) (ws : List OutputWord) : (s.emitAll ws).rval1 = s.rval1 := rfl
@[simp] theorem State.emitAll_trace (s : State) (ws : List OutputWord) : (s.emitAll ws).trace = s.trace ++ ws := rfl
@[simp] theorem State.emitAll_devmem (s : State) (ws : List OutputWord) : (s.emitAll ws).devmem = s.devmem := rfl
@[simp] theorem State.emitAll_config (s : State) (ws : List OutputWord) : (s.emitAll ws).config = s.config := rfl
@[simp] theorem State.emitAll_turns (s : State) (ws : List OutputWord) : (s.emitAll ws).turns = s.turns := rfl
@[simp] theorem State.emitAll_cmdPort (s : State) (ws : List OutputWord) : (s.emitAll ws).cmdPort = s.cmdPort := rfl
@[simp] theorem State.emitAll_allocOk (s : State) (ws : List OutputWord) : (s.emitAll ws).allocOk = s.allocOk := rfl
@[simp] theorem State.emitAll_xferSnap (s : State) (ws : List OutputWord) : (s.emitAll ws).xferSnap = s.xferSnap := rfl
@[simp] theorem State.emitAll_xferWrites (s : State) (ws : List OutputWord) : (s.emitAll ws).xferWrites = s.xferWrites := rfl
@[simp] theorem State.emitAll_xferLost (s : State) (ws : List OutputWord) : (s.emitAll ws).xferLost = s.xferLost := rfl
@[simp] theorem State.emitAll_freeCount (s : State) (ws : List OutputWord) : (s.emitAll ws).freeCount = s.freeCount := rfl

@[simp] theorem State.emit_ctxs (s : State) (w : OutputWord) : (s.emit w).ctxs = s.ctxs := rfl
@[simp] theorem State.emit_active (s : State) (w : OutputWord) : (s.emit w).active = s.active := rfl
@[simp] theorem State.emit_consEn (s : State) (w : OutputWord) : (s.emit w).consEn = s.consEn := rfl
@[simp] theorem State.emit_consPend (s : State) (w : OutputWord) : (s.emit w).consPend = s.consPend := rfl
@[simp] theorem State.emit_xferPend (s : State) (w : OutputWord) : (s.emit w).xferPend = s.xferPend := rfl
@[simp] theorem State.emit_xferBusy (s : State) (w : OutputWord) : (s.emit w).xferBusy = s.xferBusy := rfl
@[simp] theorem State.emit_primeWait (s : State) (w : OutputWord) : (s.emit w).primeWait = s.primeWait := rfl
@[simp] theorem State.emit_fatal (s : State) (w : OutputWord) : (s.emit w).fatal = s.fatal := rfl
@[simp] theorem State.emit_vecCons (s : State) (w : OutputWord) : (s.emit w).vecCons = s.vecCons := rfl
@[simp] theorem State.emit_vecXfer (s : State) (w : OutputWord) : (s.emit w).vecXfer = s.vecXfer := rfl
@[simp] theorem State.emit_xferCtx (s : State) (w : OutputWord) : (s.emit w).xferCtx = s.xferCtx := rfl
@[simp] theorem State.emit_xferDst (s : State) (w : OutputWord) : (s.emit w).xferDst = s.xferDst := rfl
@[simp] theorem State.emit_xferSrc (s : State) (w : OutputWord) : (s.emit w).xferSrc = s.xferSrc := rfl
@[simp] theorem State.emit_xferLen (s : State) (w : OutputWord) : (s.emit w).xferLen = s.xferLen := rfl
@[simp] theorem State.emit_rstat (s : State) (w : OutputWord) : (s.emit w).rstat = s.rstat := rfl
@[simp] theorem State.emit_rval0 (s : State) (w : OutputWord) : (s.emit w).rval0 = s.rval0 := rfl
@[simp] theorem State.emit_rval1 (s : State) (w : OutputWord) : (s.emit w).rval1 = s.rval1 := rfl
@[simp] theorem State.emit_trace (s : State) (w : OutputWord) : (s.emit w).trace = s.trace ++ [w] := rfl
@[simp] theorem State.emit_devmem (s : State) (w : OutputWord) : (s.emit w).devmem = s.devmem := rfl
@[simp] theorem State.emit_config (s : State) (w : OutputWord) : (s.emit w).config = s.config := rfl
@[simp] theorem State.emit_turns (s : State) (w : OutputWord) : (s.emit w).turns = s.turns := rfl
@[simp] theorem State.emit_cmdPort (s : State) (w : OutputWord) : (s.emit w).cmdPort = s.cmdPort := rfl
@[simp] theorem State.emit_allocOk (s : State) (w : OutputWord) : (s.emit w).allocOk = s.allocOk := rfl
@[simp] theorem State.emit_xferSnap (s : State) (w : OutputWord) : (s.emit w).xferSnap = s.xferSnap := rfl
@[simp] theorem State.emit_xferWrites (s : State) (w : OutputWord) : (s.emit w).xferWrites = s.xferWrites := rfl
@[simp] theorem State.emit_xferLost (s : State) (w : OutputWord) : (s.emit w).xferLost = s.xferLost := rfl
@[simp] theorem State.emit_freeCount (s : State) (w : OutputWord) : (s.emit w).freeCount = s.freeCount := rfl

@[simp] theorem State.setCtx_ctxs (s : State) (c : CtxNum) (k : Context) : (s.setCtx c k).ctxs = s.ctxs.set c.toNat k := rfl
@[simp] theorem State.setCtx_active (s : State) (c : CtxNum) (k : Context) : (s.setCtx c k).active = s.active := rfl
@[simp] theorem State.setCtx_consEn (s : State) (c : CtxNum) (k : Context) : (s.setCtx c k).consEn = s.consEn := rfl
@[simp] theorem State.setCtx_consPend (s : State) (c : CtxNum) (k : Context) : (s.setCtx c k).consPend = s.consPend := rfl
@[simp] theorem State.setCtx_xferPend (s : State) (c : CtxNum) (k : Context) : (s.setCtx c k).xferPend = s.xferPend := rfl
@[simp] theorem State.setCtx_xferBusy (s : State) (c : CtxNum) (k : Context) : (s.setCtx c k).xferBusy = s.xferBusy := rfl
@[simp] theorem State.setCtx_primeWait (s : State) (c : CtxNum) (k : Context) : (s.setCtx c k).primeWait = s.primeWait := rfl
@[simp] theorem State.setCtx_fatal (s : State) (c : CtxNum) (k : Context) : (s.setCtx c k).fatal = s.fatal := rfl
@[simp] theorem State.setCtx_vecCons (s : State) (c : CtxNum) (k : Context) : (s.setCtx c k).vecCons = s.vecCons := rfl
@[simp] theorem State.setCtx_vecXfer (s : State) (c : CtxNum) (k : Context) : (s.setCtx c k).vecXfer = s.vecXfer := rfl
@[simp] theorem State.setCtx_xferCtx (s : State) (c : CtxNum) (k : Context) : (s.setCtx c k).xferCtx = s.xferCtx := rfl
@[simp] theorem State.setCtx_xferDst (s : State) (c : CtxNum) (k : Context) : (s.setCtx c k).xferDst = s.xferDst := rfl
@[simp] theorem State.setCtx_xferSrc (s : State) (c : CtxNum) (k : Context) : (s.setCtx c k).xferSrc = s.xferSrc := rfl
@[simp] theorem State.setCtx_xferLen (s : State) (c : CtxNum) (k : Context) : (s.setCtx c k).xferLen = s.xferLen := rfl
@[simp] theorem State.setCtx_rstat (s : State) (c : CtxNum) (k : Context) : (s.setCtx c k).rstat = s.rstat := rfl
@[simp] theorem State.setCtx_rval0 (s : State) (c : CtxNum) (k : Context) : (s.setCtx c k).rval0 = s.rval0 := rfl
@[simp] theorem State.setCtx_rval1 (s : State) (c : CtxNum) (k : Context) : (s.setCtx c k).rval1 = s.rval1 := rfl
@[simp] theorem State.setCtx_trace (s : State) (c : CtxNum) (k : Context) : (s.setCtx c k).trace = s.trace := rfl
@[simp] theorem State.setCtx_devmem (s : State) (c : CtxNum) (k : Context) : (s.setCtx c k).devmem = s.devmem := rfl
@[simp] theorem State.setCtx_config (s : State) (c : CtxNum) (k : Context) : (s.setCtx c k).config = s.config := rfl
@[simp] theorem State.setCtx_turns (s : State) (c : CtxNum) (k : Context) : (s.setCtx c k).turns = s.turns := rfl
@[simp] theorem State.setCtx_cmdPort (s : State) (c : CtxNum) (k : Context) : (s.setCtx c k).cmdPort = s.cmdPort := rfl
@[simp] theorem State.setCtx_allocOk (s : State) (c : CtxNum) (k : Context) : (s.setCtx c k).allocOk = s.allocOk := rfl
@[simp] theorem State.setCtx_xferSnap (s : State) (c : CtxNum) (k : Context) : (s.setCtx c k).xferSnap = s.xferSnap := rfl
@[simp] theorem State.setCtx_xferWrites (s : State) (c : CtxNum) (k : Context) : (s.setCtx c k).xferWrites = s.xferWrites := rfl
@[simp] theorem State.setCtx_xferLost (s : State) (c : CtxNum) (k : Context) : (s.setCtx c k).xferLost = s.xferLost := rfl
@[simp] theorem State.setCtx_freeCount (s : State) (c : CtxNum) (k : Context) : (s.setCtx c k).freeCount = s.freeCount := rfl

@[simp] theorem raiseFatal_ctxs (s : State) (cause : Word) : (raiseFatal s cause).ctxs = s.ctxs := rfl
@[simp] theorem raiseFatal_active (s : State) (cause : Word) : (raiseFatal s cause).active = s.active := rfl
@[simp] theorem raiseFatal_consEn (s : State) (cause : Word) : (raiseFatal s cause).consEn = s.consEn := rfl
@[simp] theorem raiseFatal_consPend (s : State) (cause : Word) : (raiseFatal s cause).consPend = s.consPend := rfl
@[simp] theorem raiseFatal_xferPend (s : State) (cause : Word) : (raiseFatal s cause).xferPend = s.xferPend := rfl
@[simp] theorem raiseFatal_xferBusy (s : State) (cause : Word) : (raiseFatal s cause).xferBusy = s.xferBusy := rfl
@[simp] theorem raiseFatal_primeWait (s : State) (cause : Word) : (raiseFatal s cause).primeWait = s.primeWait := rfl
@[simp] theorem raiseFatal_fatal (s : State) (cause : Word) : (raiseFatal s cause).fatal = cause := rfl
@[simp] theorem raiseFatal_vecCons (s : State) (cause : Word) : (raiseFatal s cause).vecCons = s.vecCons := rfl
@[simp] theorem raiseFatal_vecXfer (s : State) (cause : Word) : (raiseFatal s cause).vecXfer = s.vecXfer := rfl
@[simp] theorem raiseFatal_xferCtx (s : State) (cause : Word) : (raiseFatal s cause).xferCtx = s.xferCtx := rfl
@[simp] theorem raiseFatal_xferDst (s : State) (cause : Word) : (raiseFatal s cause).xferDst = s.xferDst := rfl
@[simp] theorem raiseFatal_xferSrc (s : State) (cause : Word) : (raiseFatal s cause).xferSrc = s.xferSrc := rfl
@[simp] theorem raiseFatal_xferLen (s : State) (cause : Word) : (raiseFatal s cause).xferLen = s.xferLen := rfl
@[simp] theorem raiseFatal_rstat (s : State) (cause : Word) : (raiseFatal s cause).rstat = statusCode .fatalRaised := rfl
@[simp] theorem raiseFatal_rval0 (s : State) (cause : Word) : (raiseFatal s cause).rval0 = cause := rfl
@[simp] theorem raiseFatal_rval1 (s : State) (cause : Word) : (raiseFatal s cause).rval1 = 0 := rfl
@[simp] theorem raiseFatal_trace (s : State) (cause : Word) : (raiseFatal s cause).trace = s.trace := rfl
@[simp] theorem raiseFatal_devmem (s : State) (cause : Word) : (raiseFatal s cause).devmem = s.devmem := rfl
@[simp] theorem raiseFatal_config (s : State) (cause : Word) : (raiseFatal s cause).config = s.config := rfl
@[simp] theorem raiseFatal_turns (s : State) (cause : Word) : (raiseFatal s cause).turns = s.turns := rfl
@[simp] theorem raiseFatal_cmdPort (s : State) (cause : Word) : (raiseFatal s cause).cmdPort = s.cmdPort := rfl
@[simp] theorem raiseFatal_allocOk (s : State) (cause : Word) : (raiseFatal s cause).allocOk = s.allocOk := rfl
@[simp] theorem raiseFatal_xferSnap (s : State) (cause : Word) : (raiseFatal s cause).xferSnap = s.xferSnap := rfl
@[simp] theorem raiseFatal_xferWrites (s : State) (cause : Word) : (raiseFatal s cause).xferWrites = s.xferWrites := rfl
@[simp] theorem raiseFatal_xferLost (s : State) (cause : Word) : (raiseFatal s cause).xferLost = s.xferLost := rfl
@[simp] theorem raiseFatal_freeCount (s : State) (cause : Word) : (raiseFatal s cause).freeCount = s.freeCount := rfl

@[simp] theorem acknowledge_ctxs (s : State) : (acknowledge s).ctxs = s.ctxs := rfl
@[simp] theorem acknowledge_active (s : State) : (acknowledge s).active = s.active := rfl
@[simp] theorem acknowledge_consEn (s : State) : (acknowledge s).consEn = false := rfl
@[simp] theorem acknowledge_consPend (s : State) : (acknowledge s).consPend = false := rfl
@[simp] theorem acknowledge_xferPend (s : State) : (acknowledge s).xferPend = s.xferPend := rfl
@[simp] theorem acknowledge_xferBusy (s : State) : (acknowledge s).xferBusy = s.xferBusy := rfl
@[simp] theorem acknowledge_primeWait (s : State) : (acknowledge s).primeWait = s.primeWait := rfl
@[simp] theorem acknowledge_fatal (s : State) : (acknowledge s).fatal = s.fatal := rfl
@[simp] theorem acknowledge_vecCons (s : State) : (acknowledge s).vecCons = s.vecCons := rfl
@[simp] theorem acknowledge_vecXfer (s : State) : (acknowledge s).vecXfer = s.vecXfer := rfl
@[simp] theorem acknowledge_xferCtx (s : State) : (acknowledge s).xferCtx = s.xferCtx := rfl
@[simp] theorem acknowledge_xferDst (s : State) : (acknowledge s).xferDst = s.xferDst := rfl
@[simp] theorem acknowledge_xferSrc (s : State) : (acknowledge s).xferSrc = s.xferSrc := rfl
@[simp] theorem acknowledge_xferLen (s : State) : (acknowledge s).xferLen = s.xferLen := rfl
@[simp] theorem acknowledge_rstat (s : State) : (acknowledge s).rstat = s.rstat := rfl
@[simp] theorem acknowledge_rval0 (s : State) : (acknowledge s).rval0 = s.rval0 := rfl
@[simp] theorem acknowledge_rval1 (s : State) : (acknowledge s).rval1 = s.rval1 := rfl
@[simp] theorem acknowledge_trace (s : State) : (acknowledge s).trace = s.trace := rfl
@[simp] theorem acknowledge_devmem (s : State) : (acknowledge s).devmem = s.devmem := rfl
@[simp] theorem acknowledge_config (s : State) : (acknowledge s).config = s.config := rfl
@[simp] theorem acknowledge_turns (s : State) : (acknowledge s).turns = s.turns := rfl
@[simp] theorem acknowledge_cmdPort (s : State) : (acknowledge s).cmdPort = s.cmdPort := rfl
@[simp] theorem acknowledge_allocOk (s : State) : (acknowledge s).allocOk = s.allocOk := rfl
@[simp] theorem acknowledge_xferSnap (s : State) : (acknowledge s).xferSnap = s.xferSnap := rfl
@[simp] theorem acknowledge_xferWrites (s : State) : (acknowledge s).xferWrites = s.xferWrites := rfl
@[simp] theorem acknowledge_xferLost (s : State) : (acknowledge s).xferLost = s.xferLost := rfl
@[simp] theorem acknowledge_freeCount (s : State) : (acknowledge s).freeCount = s.freeCount := rfl

@[simp] theorem bind_ctxs (s : State) (c : CtxNum) : (bind s c).ctxs = s.ctxs := rfl
@[simp] theorem bind_active (s : State) (c : CtxNum) : (bind s c).active = some c := rfl
@[simp] theorem bind_consEn (s : State) (c : CtxNum) : (bind s c).consEn = s.consEn := rfl
@[simp] theorem bind_consPend (s : State) (c : CtxNum) : (bind s c).consPend = s.consPend := rfl
@[simp] theorem bind_xferPend (s : State) (c : CtxNum) : (bind s c).xferPend = s.xferPend := rfl
@[simp] theorem bind_xferBusy (s : State) (c : CtxNum) : (bind s c).xferBusy = s.xferBusy := rfl
@[simp] theorem bind_primeWait (s : State) (c : CtxNum) : (bind s c).primeWait = s.primeWait := rfl
@[simp] theorem bind_fatal (s : State) (c : CtxNum) : (bind s c).fatal = s.fatal := rfl
@[simp] theorem bind_vecCons (s : State) (c : CtxNum) : (bind s c).vecCons = s.vecCons := rfl
@[simp] theorem bind_vecXfer (s : State) (c : CtxNum) : (bind s c).vecXfer = s.vecXfer := rfl
@[simp] theorem bind_xferCtx (s : State) (c : CtxNum) : (bind s c).xferCtx = s.xferCtx := rfl
@[simp] theorem bind_xferDst (s : State) (c : CtxNum) : (bind s c).xferDst = s.xferDst := rfl
@[simp] theorem bind_xferSrc (s : State) (c : CtxNum) : (bind s c).xferSrc = s.xferSrc := rfl
@[simp] theorem bind_xferLen (s : State) (c : CtxNum) : (bind s c).xferLen = s.xferLen := rfl
@[simp] theorem bind_rstat (s : State) (c : CtxNum) : (bind s c).rstat = s.rstat := rfl
@[simp] theorem bind_rval0 (s : State) (c : CtxNum) : (bind s c).rval0 = s.rval0 := rfl
@[simp] theorem bind_rval1 (s : State) (c : CtxNum) : (bind s c).rval1 = s.rval1 := rfl
@[simp] theorem bind_trace (s : State) (c : CtxNum) : (bind s c).trace = s.trace := rfl
@[simp] theorem bind_devmem (s : State) (c : CtxNum) : (bind s c).devmem = s.devmem := rfl
@[simp] theorem bind_config (s : State) (c : CtxNum) : (bind s c).config = s.config := rfl
@[simp] theorem bind_turns (s : State) (c : CtxNum) : (bind s c).turns = s.turns := rfl
@[simp] theorem bind_cmdPort (s : State) (c : CtxNum) : (bind s c).cmdPort = s.cmdPort := rfl
@[simp] theorem bind_allocOk (s : State) (c : CtxNum) : (bind s c).allocOk = s.allocOk := rfl
@[simp] theorem bind_xferSnap (s : State) (c : CtxNum) : (bind s c).xferSnap = s.xferSnap := rfl
@[simp] theorem bind_xferWrites (s : State) (c : CtxNum) : (bind s c).xferWrites = s.xferWrites := rfl
@[simp] theorem bind_xferLost (s : State) (c : CtxNum) : (bind s c).xferLost = s.xferLost := rfl
@[simp] theorem bind_freeCount (s : State) (c : CtxNum) : (bind s c).freeCount = s.freeCount := rfl

end Sys2Proof.Machine
end

