-- ==== Sys2Proof/Laws/Ops.lean ====
section
/-! SUPPORT. Laws/Ops.lean: for each shared operation, what it can do, said once. -/

namespace Sys2Proof.Machine

section Contexts
variable (s : State) (c d : CtxNum) (k : Context)

theorem ctx_of_ctxs {s t : State} (h : t.ctxs = s.ctxs) (c : CtxNum) : t.ctx c = s.ctx c := by
  simp [State.ctx, h]

@[simp] theorem ctx_respond (st : Status) (a b : Word) : (s.respond st a b).ctx c = s.ctx c := rfl
@[simp] theorem ctx_emitAll (ws : List OutputWord) : (s.emitAll ws).ctx c = s.ctx c := rfl
@[simp] theorem ctx_emit (w : OutputWord) : (s.emit w).ctx c = s.ctx c := rfl
@[simp] theorem ctx_acknowledge : (acknowledge s).ctx c = s.ctx c := rfl
@[simp] theorem ctx_bind : (bind s d).ctx c = s.ctx c := rfl
@[simp] theorem ctx_raiseFatal (w : Word) : (raiseFatal s w).ctx c = s.ctx c := rfl

@[simp] theorem nctx_setCtx : (s.setCtx c k).nctx = s.nctx := by simp [State.nctx]
@[simp] theorem nctx_respond (st : Status) (a b : Word) : (s.respond st a b).nctx = s.nctx := rfl
@[simp] theorem nctx_emitAll (ws : List OutputWord) : (s.emitAll ws).nctx = s.nctx := rfl
@[simp] theorem nctx_acknowledge : (acknowledge s).nctx = s.nctx := rfl
@[simp] theorem nctx_bind : (bind s d).nctx = s.nctx := rfl

theorem ctx_setCtx_same (h : c.toNat < s.nctx) : (s.setCtx c k).ctx c = k := by
  have h' : c.toNat < s.ctxs.length := h
  simp [State.ctx, List.getD, h']

theorem ctx_setCtx_other (h : d ≠ c) : (s.setCtx c k).ctx d = s.ctx d := by
  have : c.toNat ≠ d.toNat := fun e => h (BitVec.eq_of_toNat_eq e.symm)
  simp [State.ctx, List.getD, this]

/-- A context number in range names a context of the list. -/
theorem ctx_mem (h : c.toNat < s.nctx) : s.ctx c ∈ s.ctxs := by
  have h' : c.toNat < s.ctxs.length := h
  simp [State.ctx, List.getD, h']

/-- The contexts after replacing one: the new one and old ones. -/
theorem mem_setCtx {k' : Context} (h : k' ∈ (s.setCtx c k).ctxs) : k' = k ∨ k' ∈ s.ctxs := by
  simp only [State.setCtx_ctxs] at h
  exact (List.mem_or_eq_of_mem_set h).symm

/-- A property of every context is kept by replacing one by a context that has it. -/
theorem forall_setCtx {P : Context → Prop} (hs : ∀ k ∈ s.ctxs, P k) (hk : P k) : ∀ k' ∈ (s.setCtx c k).ctxs, P k' := by
  intro k' h
  rcases mem_setCtx s c k h with e | e
  · exact e ▸ hk
  · exact hs _ e

end Contexts

/-- The command runs where every check passes. -/
theorem checked_run (s : State) (k : Checks) (run : Result) (hh : k.haltable = true → s.fatal = 0)
    (hc : k.ctxOk = true) (hr : k.regOk = true) (hs : k.stateOk = true) (ho : k.offsetOk = true) :
    checked s k run = run := by
  simp only [checked, hc, hr, hs, ho]
  split
  · simp_all
  · rfl

/-- All a checked command can answer: one of the five refusals, which change the response registers only, or its own
outcome with every check passed. -/
theorem checked_cases {s : State} {k : Checks} {run r : Result} (h : checked s k run = r) :
    (∃ st v, r = .next (s.respond st v 0)) ∨
      (r = run ∧ (k.haltable = true → s.fatal = 0) ∧ k.ctxOk = true ∧ k.regOk = true ∧ k.stateOk = true ∧
        k.offsetOk = true) := by
  unfold checked at h
  split at h
  · exact .inl ⟨_, _, h.symm⟩
  split at h
  · exact .inl ⟨_, _, h.symm⟩
  split at h
  · exact .inl ⟨_, _, h.symm⟩
  split at h
  · exact .inl ⟨_, _, h.symm⟩
  split at h
  · exact .inl ⟨_, _, h.symm⟩
  rename_i h1 h2 h3 h4 h5
  refine .inr ⟨h.symm, fun hh => ?_, by simpa using h2, by simpa using h3, by simpa using h4, by simpa using h5⟩
  simpa [hh] using h1

/-- A read of a byte of buffer RAM: the byte written, or a free value and one more drawn. -/
theorem memRead_cases (s : State) (c : CtxNum) (off : Nat) :
    (∃ v, s.bufByte c off = some v ∧ memRead s c off = (v, s)) ∨
      (s.bufByte c off = none ∧
        memRead s c off = (Config.freeByte s.freeCount, { s with freeCount := s.freeCount + 1 })) := by
  unfold memRead
  cases s.bufByte c off <;> simp

/-- A write of a byte of buffer RAM changes that RAM, and the writes a transfer in flight out of it may see. -/
theorem memWrite_cases (s : State) (c : CtxNum) (off : Nat) (v : Byte) :
    ∃ ws, memWrite s c off v =
        { s.setCtx c { s.ctx c with buf := (s.ctx c).buf.write off v } with xferWrites := ws } ∧
      ws = if s.transferring c then s.xferWrites ++ [(off, v)] else s.xferWrites := by
  unfold memWrite
  cases s.transferring c
  · exact ⟨_, rfl, rfl⟩
  · exact ⟨_, rfl, rfl⟩

/-- A transfer is in flight out of the RAM of `c` iff one is in flight and `c` is its source. -/
theorem transferring_iff (s : State) (c : CtxNum) :
    s.transferring c = true ↔ s.xferBusy = true ∧ s.xferCtx = c := by
  simp [State.transferring]

/-- Losing the source of a transfer writes one field of the model's own. -/
theorem loseSource_eq (s : State) (c : CtxNum) :
    loseSource s c = { s with xferLost := s.transferring c || s.xferLost } := by
  unfold loseSource
  cases s.transferring c <;> rfl

@[simp] theorem trunc32_toNat (v : Nat) : (trunc32 v).toNat = v % 2 ^ 32 := by simp [trunc32]

/-- The clamp of `commit` never exceeds the free space. -/
theorem commitCount_le (k : Context) (n : Word) : commitCount k n ≤ k.capacity.toNat - k.length.toNat :=
  Nat.min_le_right _ _

/-- The free space fits a register. -/
theorem free_lt (k : Context) : k.capacity.toNat - k.length.toNat < 2 ^ 32 := by
  have := k.capacity.isLt
  omega

/-- `commit` writes `HEAD`, `LENGTH` and `CBISSUED` and nothing else. -/
theorem commit_frame (k : Context) (n : Word) :
    commit k n = { k with head := (commit k n).head, length := (commit k n).length, cbissued := (commit k n).cbissued } :=
  rfl

/-- `consume` writes `TAIL` and `LENGTH` and nothing else. -/
theorem consume_frame (k : Context) :
    consume k = { k with tail := (consume k).tail, length := (consume k).length } := rfl

/-- Reading device memory after `n` bytes have landed: the last of them at that address, or what was there. -/
theorem landBytes_read_of_none (s : State) (n a : Nat) (h : ∀ i < n, landAddr s i ≠ a) :
    (landBytes s n).read a = s.devmem.read a := by
  induction n with
  | zero => rfl
  | succ n ih =>
    rw [landBytes, memory_read_write_other _ _ _ _ (fun e => h n (by omega) e.symm)]
    exact ih (fun i hi => h i (by omega))

/-- Landing keeps device memory in canonical form. -/
theorem landBytes_wf (s : State) (n : Nat) (h : s.devmem.wf = true) : (landBytes s n).wf = true := by
  induction n with
  | zero => exact h
  | succ n ih => exact memory_write_wf _ _ _ ih

/-- `enterIdle` changes at most the phase of context `a`. -/
theorem enterIdle_cases (s : State) (a : CtxNum) :
    enterIdle s a = s ∨ ((s.ctx a).phase = .playing ∧ enterIdle s a = s.setCtx a { s.ctx a with phase := .idle }) := by
  unfold enterIdle
  split
  · exact .inr ⟨‹_›, rfl⟩
  · exact .inl rfl

/-- All the consumption logic can do: acknowledge only, with no stream active; the underrun branch; an overlap; an
upload. In each case `t` is the state after step 1 and the entry of the logic. -/
theorem consumptionLogic_cases (s : State) :
    (s.active = none ∧ consumptionLogic s = .ran (acknowledge s) false) ∨
    ∃ a t, s.active = some a ∧ t = enterIdle (acknowledge s) a ∧
      ((underrunDue (t.ctx a) = true ∧ consumptionLogic s = .ran (underrunBranch t a) false) ∨
       (underrunDue (t.ctx a) = false ∧ t.xferBusy = true ∧ consumptionLogic s = .overlap t) ∨
       (underrunDue (t.ctx a) = false ∧ t.xferBusy = false ∧ consumptionLogic s = .ran (uploadChunk t a) true)) := by
  cases h : s.active with
  | none => exact .inl ⟨rfl, by simp [consumptionLogic, h]⟩
  | some a =>
    refine .inr ⟨a, _, rfl, rfl, ?_⟩
    cases hu : underrunDue ((enterIdle (acknowledge s) a).ctx a)
    · cases hb : (enterIdle (acknowledge s) a).xferBusy <;> simp [consumptionLogic, h, hu, hb]
    · simp [consumptionLogic, h, hu]

end Sys2Proof.Machine
end

