-- ==== Sys2Proof/Laws/Decode.lean ====
section
/-! SUPPORT. Laws/Decode.lean: what each field of a built command word or output word reads as, how such a word meets a
mask, and that a word is built from its own fields. -/

namespace Sys2Proof

@[simp] theorem cwOp_commandWord (op c a : BitVec 8) (i : Word) : cwOp (commandWord op c a i) = op := by
  unfold cwOp commandWord; ext j hj; simp; grind
@[simp] theorem cwCtx_commandWord (op c a : BitVec 8) (i : Word) : cwCtx (commandWord op c a i) = c := by
  unfold cwCtx commandWord; ext j hj; simp; grind
@[simp] theorem cwRsvd_commandWord (op c a : BitVec 8) (i : Word) : cwRsvd (commandWord op c a i) = 0 := by
  unfold cwRsvd commandWord; ext j hj; simp; grind
@[simp] theorem cwAux_commandWord (op c a : BitVec 8) (i : Word) : cwAux (commandWord op c a i) = a := by
  unfold cwAux commandWord; ext j hj; simp; grind
@[simp] theorem cwImm_commandWord (op c a : BitVec 8) (i : Word) : cwImm (commandWord op c a i) = i := by
  unfold cwImm commandWord; ext j hj; simp; grind

@[simp] theorem dwKind_outputWord (n ch : BitVec 8) (a b c : Word) : dwKind (outputWord n ch a b c) = n := by
  unfold dwKind outputWord; ext j hj; simp; grind
@[simp] theorem dwCh_outputWord (n ch : BitVec 8) (a b c : Word) : dwCh (outputWord n ch a b c) = ch := by
  unfold dwCh outputWord; ext j hj; simp; grind
@[simp] theorem dwZero_outputWord (n ch : BitVec 8) (a b c : Word) : dwZero (outputWord n ch a b c) = 0 := by
  unfold dwZero outputWord; ext j hj; simp; grind
@[simp] theorem dwA_outputWord (n ch : BitVec 8) (a b c : Word) : dwA (outputWord n ch a b c) = a := by
  unfold dwA outputWord; ext j hj; simp; grind
@[simp] theorem dwB_outputWord (n ch : BitVec 8) (a b c : Word) : dwB (outputWord n ch a b c) = b := by
  unfold dwB outputWord; ext j hj; simp; grind
@[simp] theorem dwC_outputWord (n ch : BitVec 8) (a b c : Word) : dwC (outputWord n ch a b c) = c := by
  unfold dwC outputWord; ext j hj; simp; grind

/-- Two words whose five fields agree are the same command word. -/
theorem commandWord_of_fields (w : CommandWord) (h : cwRsvd w = 0) :
    commandWord (cwOp w) (cwCtx w) (cwAux w) (cwImm w) = w := by
  have hb : ∀ j, j < 8 → w.getLsbD (40 + j) = false := by
    intro j hj
    have := congrArg (fun v => v.getLsbD j) h
    simpa [cwRsvd, hj] using this
  unfold commandWord cwOp cwCtx cwAux cwImm
  ext i hi
  by_cases h1 : 40 ≤ i ∧ i < 48
  · have := hb (i - 40) (by omega)
    simp only [show 40 + (i - 40) = i by omega] at this
    simp; grind
  · simp; grind

/-- A word whose zero field is 0 is the output word of its fields. -/
theorem outputWord_of_fields (w : OutputWord) (h : dwZero w = 0) :
    outputWord (dwKind w) (dwCh w) (dwA w) (dwB w) (dwC w) = w := by
  have hb : ∀ j, j < 16 → w.getLsbD (96 + j) = false := by
    intro j hj
    have := congrArg (fun v => v.getLsbD j) h
    simpa [dwZero, hj] using this
  unfold outputWord dwKind dwCh dwA dwB dwC
  ext i hi
  by_cases h1 : 96 ≤ i ∧ i < 112
  · have := hb (i - 96) (by omega)
    simp only [show 96 + (i - 96) = i by omega] at this
    simp; grind
  · simp; grind

@[simp] theorem cwOp_and (w m : CommandWord) : cwOp (w &&& m) = cwOp w &&& cwOp m := by
  unfold cwOp; ext j hj; simp
@[simp] theorem cwCtx_and (w m : CommandWord) : cwCtx (w &&& m) = cwCtx w &&& cwCtx m := by
  unfold cwCtx; ext j hj; simp
@[simp] theorem cwRsvd_and (w m : CommandWord) : cwRsvd (w &&& m) = cwRsvd w &&& cwRsvd m := by
  unfold cwRsvd; ext j hj; simp
@[simp] theorem cwAux_and (w m : CommandWord) : cwAux (w &&& m) = cwAux w &&& cwAux m := by
  unfold cwAux; ext j hj; simp
@[simp] theorem cwImm_and (w m : CommandWord) : cwImm (w &&& m) = cwImm w &&& cwImm m := by
  unfold cwImm; ext j hj; simp

@[simp] theorem dwKind_and (w m : OutputWord) : dwKind (w &&& m) = dwKind w &&& dwKind m := by
  unfold dwKind; ext j hj; simp
@[simp] theorem dwCh_and (w m : OutputWord) : dwCh (w &&& m) = dwCh w &&& dwCh m := by
  unfold dwCh; ext j hj; simp
@[simp] theorem dwZero_and (w m : OutputWord) : dwZero (w &&& m) = dwZero w &&& dwZero m := by
  unfold dwZero; ext j hj; simp
@[simp] theorem dwA_and (w m : OutputWord) : dwA (w &&& m) = dwA w &&& dwA m := by
  unfold dwA; ext j hj; simp
@[simp] theorem dwB_and (w m : OutputWord) : dwB (w &&& m) = dwB w &&& dwB m := by
  unfold dwB; ext j hj; simp
@[simp] theorem dwC_and (w m : OutputWord) : dwC (w &&& m) = dwC w &&& dwC m := by
  unfold dwC; ext j hj; simp

/-- Masking a built command word masks its fields. -/
theorem commandWord_and (op c a : BitVec 8) (i : Word) (m : CommandWord) :
    commandWord op c a i &&& m = commandWord (op &&& cwOp m) (c &&& cwCtx m) (a &&& cwAux m) (i &&& cwImm m) := by
  rw [← commandWord_of_fields (commandWord op c a i &&& m) (by simp)]; simp

/-- Masking a built output word masks its fields. -/
theorem outputWord_and (n ch : BitVec 8) (a b c : Word) (m : OutputWord) :
    outputWord n ch a b c &&& m =
      outputWord (n &&& dwKind m) (ch &&& dwCh m) (a &&& dwA m) (b &&& dwB m) (c &&& dwC m) := by
  rw [← outputWord_of_fields (outputWord n ch a b c &&& m) (by simp)]; simp

theorem whenFormat_ok {b : Bool} {i j : Instr} (h : whenFormat b i = .ok j) : b = true ∧ j = i := by
  unfold whenFormat at h; split at h <;> cases h; exact ⟨‹_›, rfl⟩

theorem whenArguments_ok {b : Bool} {i j : Instr} (h : whenArguments b i = .ok j) : b = true ∧ j = i := by
  unfold whenArguments at h; split at h <;> cases h; exact ⟨‹_›, rfl⟩

/-- One arm of a decoder's chain: taken with its format met, or passed. -/
theorem decode_arm {p : Prop} [Decidable p] {a b : Except DecodeError Instr} {i : Instr}
    (h : (if p then a else b) = .ok i) : (p ∧ a = .ok i) ∨ b = .ok i := by
  split at h
  · exact .inl ⟨‹_›, h⟩
  · exact .inr h

/-- A command word decodes to the row of its opcode, with that row's format met (R83 to R89). -/
theorem decodeCommand_ok {w : CommandWord} {i : Instr} (h : decodeCommand w = .ok i) :
    (cwOp w = 0x01 ∧ formatRI w = true ∧ i = .wrcfg (cwCtx w) (cwAux w) (cwImm w)) ∨
    (cwOp w = 0x02 ∧ formatR w = true ∧ i = .rdreg (cwCtx w) (cwAux w)) ∨
    (cwOp w = 0x03 ∧ formatRI w = true ∧ i = .wrbuf (cwCtx w) (cwAux w) (cwImm w)) ∨
    (cwOp w = 0x04 ∧ formatI w = true ∧ i = .rdbuf (cwCtx w) (cwImm w)) ∨
    (cwOp w = 0x10 ∧ formatN w = true ∧ i = .init (cwCtx w)) ∨
    (cwOp w = 0x11 ∧ formatN w = true ∧ i = .destroy (cwCtx w)) ∨
    (cwOp w = 0x12 ∧ formatStart w = true ∧ i = .start (cwCtx w) (cwResume w)) ∨
    (cwOp w = 0x13 ∧ formatG w = true ∧ i = .stop) ∨
    (cwOp w = 0x14 ∧ formatI w = true ∧ i = .setrate (cwCtx w) (cwImm w)) ∨
    (cwOp w = 0x15 ∧ formatN w = true ∧ i = .isactive (cwCtx w)) ∨
    (cwOp w = 0x16 ∧ formatN w = true ∧ i = .reflen (cwCtx w)) ∨
    (cwOp w = 0x17 ∧ formatN w = true ∧ i = .feedptr (cwCtx w)) ∨
    (cwOp w = 0x18 ∧ formatI w = true ∧ i = .feed (cwCtx w) (cwImm w)) := by
  unfold decodeCommand at h
  rcases decode_arm h with ⟨e, h⟩ | h
  · exact .inl ⟨e, whenFormat_ok h⟩
  rcases decode_arm h with ⟨e, h⟩ | h
  · exact .inr (.inl ⟨e, whenFormat_ok h⟩)
  rcases decode_arm h with ⟨e, h⟩ | h
  · exact .inr (.inr (.inl ⟨e, whenFormat_ok h⟩))
  rcases decode_arm h with ⟨e, h⟩ | h
  · exact .inr (.inr (.inr (.inl ⟨e, whenFormat_ok h⟩)))
  rcases decode_arm h with ⟨e, h⟩ | h
  · exact .inr (.inr (.inr (.inr (.inl ⟨e, whenFormat_ok h⟩))))
  rcases decode_arm h with ⟨e, h⟩ | h
  · exact .inr (.inr (.inr (.inr (.inr (.inl ⟨e, whenFormat_ok h⟩)))))
  rcases decode_arm h with ⟨e, h⟩ | h
  · exact .inr (.inr (.inr (.inr (.inr (.inr (.inl ⟨e, whenFormat_ok h⟩))))))
  rcases decode_arm h with ⟨e, h⟩ | h
  · exact .inr (.inr (.inr (.inr (.inr (.inr (.inr (.inl ⟨e, whenFormat_ok h⟩)))))))
  rcases decode_arm h with ⟨e, h⟩ | h
  · exact .inr (.inr (.inr (.inr (.inr (.inr (.inr (.inr (.inl ⟨e, whenFormat_ok h⟩))))))))
  rcases decode_arm h with ⟨e, h⟩ | h
  · exact .inr (.inr (.inr (.inr (.inr (.inr (.inr (.inr (.inr (.inl ⟨e, whenFormat_ok h⟩)))))))))
  rcases decode_arm h with ⟨e, h⟩ | h
  · exact .inr (.inr (.inr (.inr (.inr (.inr (.inr (.inr (.inr (.inr (.inl ⟨e, whenFormat_ok h⟩))))))))))
  rcases decode_arm h with ⟨e, h⟩ | h
  · exact .inr (.inr (.inr (.inr (.inr (.inr (.inr (.inr (.inr (.inr (.inr (.inl ⟨e, whenFormat_ok h⟩)))))))))))
  rcases decode_arm h with ⟨e, h⟩ | h
  · exact .inr (.inr (.inr (.inr (.inr (.inr (.inr (.inr (.inr (.inr (.inr (.inr (⟨e, whenFormat_ok h⟩))))))))))))
  cases h

/-- An output word decodes to the row of its kind, with the zero fields met (R96). -/
theorem decodeOutput_ok {w : OutputWord} {i : Instr} (h : decodeOutput w = .ok i) :
    (dwKind w = 0x01 ∧ outChA w = true ∧ i = .setLoop (dwCh w) (dwA w)) ∨
    (dwKind w = 0x02 ∧ outA w = true ∧ i = .setIrqAddr (dwA w)) ∨
    (dwKind w = 0x03 ∧ outFull w = true ∧ i = .xferStart (dwCh w) (dwA w) (dwB w) (dwC w)) ∨
    (dwKind w = 0x04 ∧ outA w = true ∧ i = .keyOn (dwA w)) ∨
    (dwKind w = 0x05 ∧ outA w = true ∧ i = .keyOff (dwA w)) ∨
    (dwKind w = 0x06 ∧ outChA w = true ∧ i = .setPitch (dwCh w) (dwA w)) ∨
    (dwKind w = 0x07 ∧ outChA w = true ∧ i = .setEnv (dwCh w) (dwA w)) ∨
    (dwKind w = 0x08 ∧ outChA w = true ∧ i = .setStart (dwCh w) (dwA w)) ∨
    (dwKind w = 0x10 ∧ outChA w = true ∧ i = .cbRefill (dwCh w) (dwA w)) ∨
    (dwKind w = 0x11 ∧ outChA w = true ∧ i = .cbUnderrun (dwCh w) (dwA w)) := by
  unfold decodeOutput at h
  rcases decode_arm h with ⟨e, h⟩ | h
  · exact .inl ⟨e, whenArguments_ok h⟩
  rcases decode_arm h with ⟨e, h⟩ | h
  · exact .inr (.inl ⟨e, whenArguments_ok h⟩)
  rcases decode_arm h with ⟨e, h⟩ | h
  · exact .inr (.inr (.inl ⟨e, whenArguments_ok h⟩))
  rcases decode_arm h with ⟨e, h⟩ | h
  · exact .inr (.inr (.inr (.inl ⟨e, whenArguments_ok h⟩)))
  rcases decode_arm h with ⟨e, h⟩ | h
  · exact .inr (.inr (.inr (.inr (.inl ⟨e, whenArguments_ok h⟩))))
  rcases decode_arm h with ⟨e, h⟩ | h
  · exact .inr (.inr (.inr (.inr (.inr (.inl ⟨e, whenArguments_ok h⟩)))))
  rcases decode_arm h with ⟨e, h⟩ | h
  · exact .inr (.inr (.inr (.inr (.inr (.inr (.inl ⟨e, whenArguments_ok h⟩))))))
  rcases decode_arm h with ⟨e, h⟩ | h
  · exact .inr (.inr (.inr (.inr (.inr (.inr (.inr (.inl ⟨e, whenArguments_ok h⟩)))))))
  rcases decode_arm h with ⟨e, h⟩ | h
  · exact .inr (.inr (.inr (.inr (.inr (.inr (.inr (.inr (.inl ⟨e, whenArguments_ok h⟩))))))))
  rcases decode_arm h with ⟨e, h⟩ | h
  · exact .inr (.inr (.inr (.inr (.inr (.inr (.inr (.inr (.inr (⟨e, whenArguments_ok h⟩)))))))))
  cases h

end Sys2Proof
end

