-- ==== Sys2Proof/Laws/Step.lean ====
section
/-! SUPPORT. Laws/Step.lean: what a step is for each turn, so that no proof unfolds `fetch`. -/

namespace Sys2Proof.Machine

theorem step_idle (s : State) (h : s.turns = []) : step s = .next s := by
  simp [step, fetch, h]

theorem step_of_turn (s : State) (t : Turn) (rest : List Turn) (h : s.turns = t :: rest) :
    step s = (match takeTurn t { s with turns := rest } with | .run i u => exec i u | .done r => r) := by
  have e : fetch s = takeTurn t { s with turns := rest } := by simp only [fetch, h]
  exact congrArg (fun f => match f with | .run i u => exec i u | .done r => r) e

theorem step_dispatchXfer (s : State) (rest : List Turn) (h : s.turns = .dispatchXfer :: rest) :
    step s = dispatchXfer { s with turns := rest } := step_of_turn s _ rest h

theorem step_dispatchCons (s : State) (rest : List Turn) (h : s.turns = .dispatchCons :: rest) :
    step s = dispatchCons { s with turns := rest } := step_of_turn s _ rest h

theorem step_startPhase2 (s : State) (rest : List Turn) (h : s.turns = .startPhase2 :: rest) :
    step s = startPhase2 { s with turns := rest } := step_of_turn s _ rest h

theorem step_reset (s : State) (rest : List Turn) (h : s.turns = .reset :: rest) :
    step s = .next (hardwareReset { s with turns := rest }) := step_of_turn s _ rest h

theorem step_allocInput (s : State) (ok : Bool) (rest : List Turn) (h : s.turns = .allocInput ok :: rest) :
    step s = .next { s with turns := rest, allocOk := ok } := step_of_turn s _ rest h

/-- What decodes from the command port is a command. -/
theorem port_of_decodeCommand {w : CommandWord} {i : Instr} (h : decodeCommand w = .ok i) : i.port = .command := by
  rcases decodeCommand_ok h with h | h | h | h | h | h | h | h | h | h | h | h | h <;> rw [h.2.2] <;> rfl

/-- What decodes from the event port is an event. -/
theorem port_of_decodeEdges {irq : BitVec 2} {i : Instr} (h : decodeEdges irq = .ok i) : i.port = .event := by
  unfold decodeEdges at h
  repeat' split at h
  all_goals first | (cases h; rfl) | cases h

/-- What decodes from the output port is an output word. -/
theorem port_of_decodeOutput {dw : OutputWord} {i : Instr} (h : decodeOutput dw = .ok i) : i.port = .output := by
  rcases decodeOutput_ok h with h | h | h | h | h | h | h | h | h | h <;> rw [h.2.2] <;> rfl

/-- All a step that answers a next state can be: nothing but a move of the queues; an illegal word answered; an
instruction of a port executed; or one of the five turns that carry no instruction. -/
theorem step_next_cases {s t : State} (h : step s = .next t) :
    (∃ ts, t = { s with turns := ts } ∧ ∀ u ∈ ts, u ∈ s.turns) ∨
    (t = illegalWord { s with turns := s.turns.tail, cmdPort := s.cmdPort.tail } ∧ s.nextTurn = some .host) ∨
    (∃ i ts ws, exec i { s with turns := ts, cmdPort := ws } = .next t ∧
      (∀ u ∈ ts, u ∈ s.turns ∨ u = .edges 0b10) ∧ (∀ w ∈ ws, w ∈ s.cmdPort) ∧
      ((Accepts s i ∧ i.port = .command ∧ ts = s.turns.tail ∧ ws = s.cmdPort.tail) ∨
       (i.port = .event ∧ ∃ irq, s.nextTurn = some (.edges irq)) ∨
       (i.port = .output ∧ ∃ dw, s.nextTurn = some (.output dw) ∧ decode (.output dw) = .ok i))) ∨
    (s.nextTurn = some .dispatchXfer ∧ dispatchXfer { s with turns := s.turns.tail } = .next t) ∨
    (s.nextTurn = some .dispatchCons ∧ dispatchCons { s with turns := s.turns.tail } = .next t) ∨
    (s.nextTurn = some .startPhase2 ∧ startPhase2 { s with turns := s.turns.tail } = .next t) ∨
    (s.nextTurn = some .reset ∧ t = hardwareReset { s with turns := s.turns.tail }) ∨
    (∃ ok, s.nextTurn = some (.allocInput ok) ∧ t = { s with turns := s.turns.tail, allocOk := ok }) := by
  cases ht : s.turns with
  | nil =>
    rw [step_idle s ht] at h; cases h
    exact .inl ⟨s.turns, rfl, by simp [ht]⟩
  | cons u rest =>
    rw [step_of_turn s u rest ht] at h
    have quiet : t = { s with turns := rest } → ∃ ts, t = { s with turns := ts } ∧ ∀ v ∈ ts, v ∈ u :: rest :=
      fun e => ⟨rest, e, fun v hv => List.mem_cons_of_mem _ hv⟩
    have hn : s.nextTurn = some u := by simp [State.nextTurn, ht]
    cases u with
    | host =>
      simp only [takeTurn, fetchCommand] at h
      cases hp : s.primeWait with
      | true => simp only [hp] at h; cases h; exact .inl ⟨rest, by simp, fun v hv => List.mem_cons_of_mem _ hv⟩
      | false =>
        cases hw : s.cmdPort with
        | nil => simp only [hp, hw] at h; cases h; exact .inl ⟨rest, by simp, fun v hv => List.mem_cons_of_mem _ hv⟩
        | cons w ws =>
          cases hd : decode (.command w) with
          | ok i =>
            simp only [hp, hw, hd] at h
            refine .inr (.inr (.inl ⟨i, rest, ws, ?_, fun v hv => .inl (List.mem_cons_of_mem _ hv),
              fun v hv => List.mem_cons_of_mem _ hv, .inl ⟨⟨hn, hp, w, ws, hw, hd⟩, port_of_decodeCommand hd, rfl, rfl⟩⟩))
            cases s; cases hp; exact h
          | error e =>
            simp only [hp, hw, hd] at h; cases h
            exact .inr (.inl ⟨by cases s; cases hp; rfl, hn⟩)
    | edges irq =>
      simp only [takeTurn, fetchEdges] at h
      cases hd : decode (.edges irq) with
      | ok i =>
        simp only [hd] at h
        by_cases hl : edgesLeft irq = 0
        · simp only [hl, if_true] at h
          exact .inr (.inr (.inl ⟨i, rest, s.cmdPort, h, fun v hv => .inl (List.mem_cons_of_mem _ hv), fun v hv => hv,
            .inr (.inl ⟨port_of_decodeEdges hd, irq, hn⟩)⟩))
        · simp only [hl, if_false] at h
          have hl2 : edgesLeft irq = 0b10 := by clear h hd hn ht quiet; revert irq; decide
          refine .inr (.inr (.inl ⟨i, .edges (edgesLeft irq) :: rest, s.cmdPort, h, fun v hv => ?_, fun v hv => hv,
            .inr (.inl ⟨port_of_decodeEdges hd, irq, hn⟩)⟩))
          rcases List.mem_cons.mp hv with e | e
          · exact .inr (by rw [e, hl2])
          · exact .inl (List.mem_cons_of_mem _ e)
      | error e => simp only [hd] at h; cases h; exact .inl (quiet rfl)
    | output dw =>
      simp only [takeTurn, fetchOutput] at h
      cases hd : decode (.output dw) with
      | ok i =>
        simp only [hd] at h
        exact .inr (.inr (.inl ⟨i, rest, s.cmdPort, h, fun v hv => .inl (List.mem_cons_of_mem _ hv), fun v hv => hv,
          .inr (.inr ⟨port_of_decodeOutput hd, dw, hn, hd⟩)⟩))
      | error e => simp only [hd] at h; cases h
    | dispatchXfer => exact .inr (.inr (.inr (.inl ⟨hn, h⟩)))
    | dispatchCons => exact .inr (.inr (.inr (.inr (.inl ⟨hn, h⟩))))
    | startPhase2 => exact .inr (.inr (.inr (.inr (.inr (.inl ⟨hn, h⟩)))))
    | reset => cases h; exact .inr (.inr (.inr (.inr (.inr (.inr (.inl ⟨hn, rfl⟩))))))
    | allocInput ok => cases h; exact .inr (.inr (.inr (.inr (.inr (.inr (.inr ⟨ok, hn, rfl⟩))))))

end Sys2Proof.Machine
end

