-- ==== Sys2Proof/Laws/Contexts.lean ====
section
/-! SUPPORT. Laws/Contexts.lean: said once, all a step can do to the registers of a context, as a principle: a property
of contexts that each single update keeps is kept by every step. -/

namespace Sys2Proof.Machine

/-- What taking a chunk leaves of a context (R135, R136, R138). -/
def uploaded (k : Context) : Context :=
  { consume k with
    dbidx := k.dbidx ^^^ 1
    buffering := true
    chunkcnt := trunc32 (k.chunkcnt.toNat + 1)
    cbissued := k.cbissued || decide ((consume k).length.toNat ≤ k.thresh.toNat)
    phase := .uploading }

/-- The updates a context undergoes, each with the condition under which it happens. -/
structure KeptByUpdates (cfg : Config) (P : Context → Prop) : Prop where
  reset : P Context.reset
  config : ∀ k reg v, P k → k.alloc = false → P (writeCfg cfg k reg v)
  commit : ∀ k n, P k → k.alloc = true → P (commit k n)
  rate : ∀ k v, P k → k.alloc = true → P { k with rate := v }
  byte : ∀ k off v, P k → k.alloc = true → off < k.capacity.toNat → P { k with buf := k.buf.write off v }
  create : ∀ s c, s.config = cfg → P (s.ctx c) → (s.ctx c).alloc = false →
    popcount (chmaskOf s.config (s.ctx c)) ≠ 0 → chunkProduct s c < 2 ^ 32 → allocSucceeds s c = true →
    P (initContext s c)
  destroy : ∀ k, P k → k.alloc = true → P { k with alloc := false, buf := [] }
  idle : ∀ k, P k → k.phase = .playing → P { k with phase := .idle }
  upload : ∀ k, P k → k.chunk.toNat ≤ k.length.toNat → P (uploaded k)
  landed : ∀ k, P k → P (chunkLanded k)

section
variable {cfg : Config} {P : Context → Prop} (kept : KeptByUpdates cfg P)
include kept

/-- The property holds of the registers any context number names. -/
theorem kept_ctx {s : State} (h : ∀ k ∈ s.ctxs, P k) (c : CtxNum) : P (s.ctx c) := by
  by_cases hc : c.toNat < s.nctx
  · exact h _ (ctx_mem s c hc)
  · have : s.ctx c = Context.reset := by
      have h' : ¬ c.toNat < s.ctxs.length := hc
      simp [State.ctx, List.getD, List.getElem?_eq_none (Nat.le_of_not_lt h')]
    exact this ▸ kept.reset

theorem kept_enterIdle {s : State} (a : CtxNum) (h : ∀ k ∈ s.ctxs, P k) : ∀ k ∈ (enterIdle s a).ctxs, P k := by
  rcases enterIdle_cases s a with e | ⟨hp, e⟩ <;> rw [e]
  · exact h
  · exact forall_setCtx s a _ h (kept.idle _ (kept_ctx kept h a) hp)

end

/-- The contexts after the underrun branch are those before it (R134). -/
@[simp] theorem underrunBranch_ctxs (s : State) (a : CtxNum) : (underrunBranch s a).ctxs = s.ctxs := by
  unfold underrunBranch; dsimp only; split <;> rfl

/-- Replacing a context by itself changes nothing. -/
theorem set_ctx_self (s : State) (c : CtxNum) : s.ctxs.set c.toNat (s.ctx c) = s.ctxs := by
  by_cases hc : c.toNat < s.ctxs.length
  · simp [State.ctx, List.getD, hc]
  · exact List.set_eq_of_length_le (Nat.le_of_not_lt hc)

/-- The contexts after the threshold comparator: `CBISSUED` is set iff the level is at or below the threshold, or was
set before (R136). -/
theorem requestRefill_ctxs (s : State) (a : CtxNum) :
    (requestRefill s a).ctxs = s.ctxs.set a.toNat
      { s.ctx a with cbissued := (s.ctx a).cbissued || decide ((s.ctx a).length.toNat ≤ (s.ctx a).thresh.toNat) } := by
  unfold requestRefill
  by_cases hd : refillDue (s.ctx a) = true
  · have h : (s.ctx a).length.toNat ≤ (s.ctx a).thresh.toNat := by
      simp [refillDue] at hd; exact hd.1
    simp only [hd, if_true, h, decide_true, Bool.or_true]
    split <;> rfl
  · have h : ((s.ctx a).cbissued || decide ((s.ctx a).length.toNat ≤ (s.ctx a).thresh.toNat)) = (s.ctx a).cbissued := by
      simp [refillDue] at hd
      by_cases h : (s.ctx a).length.toNat ≤ (s.ctx a).thresh.toNat
      · simp [hd h]
      · simp only [h, decide_false, Bool.or_false]
    rw [if_neg hd, h]
    exact (set_ctx_self s a).symm

/-- The contexts after an upload: context `a` is `uploaded`, the others stay (R143). -/
theorem uploadChunk_ctxs (s : State) (a : CtxNum) :
    (uploadChunk s a).ctxs = s.ctxs.set a.toNat (uploaded (s.ctx a)) := by
  have h1 : (uploadChunk s a).ctxs = (requestRefill (takeChunk s a) a).ctxs.set a.toNat
      { (requestRefill (takeChunk s a) a).ctx a with phase := .uploading } := rfl
  by_cases hc : a.toNat < s.ctxs.length
  · have e1 := ctx_setCtx_same s a { consume (s.ctx a) with
      dbidx := (s.ctx a).dbidx ^^^ 1
      buffering := true
      chunkcnt := trunc32 ((s.ctx a).chunkcnt.toNat + 1)
      phase := .chunkAvail } hc
    rw [h1]
    have e2 : (requestRefill (takeChunk s a) a).ctx a = { (takeChunk s a).ctx a with
        cbissued := ((takeChunk s a).ctx a).cbissued ||
          decide (((takeChunk s a).ctx a).length.toNat ≤ ((takeChunk s a).ctx a).thresh.toNat) } := by
      simp [State.ctx, requestRefill_ctxs, takeChunk, List.getD, hc]
    rw [e2, requestRefill_ctxs, List.set_set]
    rw [show (takeChunk s a).ctx a = _ from e1]
    simp [takeChunk, uploaded]; rfl
  · have hc' := Nat.le_of_not_lt hc
    have hs : ∀ (l : List Context) k, l.length = s.ctxs.length → l.set a.toNat k = l := by
      intro l k hl; exact List.set_eq_of_length_le (by omega)
    rw [hs _ _ rfl, h1, requestRefill_ctxs]
    simp [takeChunk, hs]

section
variable {cfg : Config} {P : Context → Prop} (kept : KeptByUpdates cfg P)
include kept

/-- A run of the consumption logic keeps the property, whether it ends normally or stops at an overlap. -/
theorem kept_consumptionLogic {s t : State} (h : ∀ k ∈ s.ctxs, P k)
    (hr : (∃ b, consumptionLogic s = .ran t b) ∨ consumptionLogic s = .overlap t) : ∀ k ∈ t.ctxs, P k := by
  rcases consumptionLogic_cases s with ⟨_, e⟩ | ⟨a, u, _, hu, c⟩
  · rw [e] at hr; rcases hr with ⟨b, hr⟩ | hr <;> cases hr; exact h
  have hk : ∀ k ∈ u.ctxs, P k := hu ▸ kept_enterIdle kept a (s := acknowledge s) h
  rcases c with ⟨_, e⟩ | ⟨_, _, e⟩ | ⟨hd, _, e⟩ <;> rw [e] at hr <;> rcases hr with ⟨b, hr⟩ | hr <;> cases hr
  · simpa using hk
  · exact hk
  · rw [uploadChunk_ctxs]
    exact forall_setCtx u a _ hk (kept.upload _ (kept_ctx kept hk a) (by simpa [underrunDue] using hd))

theorem kept_startTail {s t : State} {c : CtxNum} (h : ∀ k ∈ s.ctxs, P k) (hr : startTail s c = .next t) :
    ∀ k ∈ t.ctxs, P k := by
  unfold startTail at hr
  split at hr <;> cases hr
  rename_i u b e
  exact kept_consumptionLogic kept (s := s.emitAll (startWords s c)) (t := u) h (.inl ⟨b, e⟩)

theorem kept_startBody {s t : State} {c : CtxNum} {resume : Bool} (h : ∀ k ∈ s.ctxs, P k)
    (hr : startBody c resume s = .next t) : ∀ k ∈ t.ctxs, P k := by
  unfold startBody at hr
  split at hr
  · cases hr; exact h
  split at hr
  · exact kept_startTail kept (s := bind s c) h hr
  split at hr
  · cases hr
  · cases hr
    rename_i u e
    exact kept_consumptionLogic kept (s := bind s c) (t := u) h (.inl ⟨_, e⟩)
  · exact kept_startTail kept (kept_consumptionLogic kept (s := bind s c) h (.inl ⟨_, ‹_›⟩)) hr

/-- Every instruction keeps the property. -/
theorem kept_exec {s t : State} {i : Instr} (hcfg : s.config = cfg) (h : ∀ k ∈ s.ctxs, P k)
    (hr : exec i s = .next t) : ∀ k ∈ t.ctxs, P k := by
  have hs : ∀ c k, P k → ∀ k' ∈ (s.setCtx c k).ctxs, P k' := fun c k hk => forall_setCtx s c k h hk
  have hP := kept_ctx kept h
  cases i <;> simp only [exec] at hr
  case wrcfg c r v =>
    rcases checked_cases hr with ⟨_, _, e⟩ | ⟨e, _, _, _, ha, _⟩ <;> cases e
    · exact h
    · exact hs _ _ (hcfg ▸ kept.config _ r v (hP c) (by simpa using ha))
  case rdreg c r =>
    unfold execRdreg at hr
    split at hr <;> rcases checked_cases hr with ⟨_, _, e⟩ | ⟨e, _⟩ <;> cases e <;> exact h
  case wrbuf c b o =>
    rcases checked_cases hr with ⟨_, _, e⟩ | ⟨e, _, _, _, ha, ho⟩ <;> cases e
    · exact h
    · obtain ⟨ws, e, _⟩ := memWrite_cases s c o.toNat b
      rw [e]
      exact hs _ _ (kept.byte _ _ _ (hP c) ha (by simpa [bufferChecks] using ho))
  case rdbuf c o =>
    rcases checked_cases hr with ⟨_, _, e⟩ | ⟨e, _⟩ <;> cases e
    · exact h
    · rcases memRead_cases s c o.toNat with ⟨v, _, e⟩ | ⟨_, e⟩ <;> rw [e] <;> exact h
  case init c =>
    rcases checked_cases hr with ⟨_, _, e⟩ | ⟨e, _, _, _, ha, _⟩
    · cases e; exact h
    · split at e
      · cases e; exact h
      split at e
      · cases e; exact h
      split at e
      · cases e; exact h
      rename_i h1 h2 h3
      cases e
      have hk := kept.create s c hcfg (hP c) (by simpa using ha) h1 (Nat.lt_of_not_le h2) (by simpa using h3)
      unfold createContext
      rw [loseSource_eq]
      exact hs _ _ hk
  case destroy c =>
    rcases checked_cases hr with ⟨_, _, e⟩ | ⟨e, _, _, _, ha, _⟩ <;> cases e
    · exact h
    · unfold destroyContext
      rw [loseSource_eq]
      exact hs _ _ (kept.destroy _ (hP c) (by simp at ha; exact ha.1))
  case start c resume =>
    rcases checked_cases hr with ⟨_, _, e⟩ | ⟨e, _⟩
    · cases e; exact h
    · exact kept_startBody kept h e.symm
  case stop =>
    rcases checked_cases hr with ⟨_, _, e⟩ | ⟨e, _⟩
    · cases e; exact h
    · split at e <;> cases e <;> exact h
  case setrate c v =>
    rcases checked_cases hr with ⟨_, _, e⟩ | ⟨e, _, _, _, ha, _⟩ <;> cases e
    · exact h
    · exact hs _ _ (kept.rate _ v (hP c) ha)
  case feed c n =>
    rcases checked_cases hr with ⟨_, _, e⟩ | ⟨e, _, _, _, ha, _⟩ <;> cases e
    · exact h
    · exact hs _ _ (kept.commit _ n (hP c) ha)
  case isactive c => rcases checked_cases hr with ⟨_, _, e⟩ | ⟨e, _⟩ <;> cases e <;> exact h
  case reflen c => rcases checked_cases hr with ⟨_, _, e⟩ | ⟨e, _⟩ <;> cases e <;> exact h
  case feedptr c => rcases checked_cases hr with ⟨_, _, e⟩ | ⟨e, _⟩ <;> cases e <;> exact h
  case evConsEdge => unfold execEvConsEdge at hr; split at hr <;> cases hr <;> exact h
  case evXferDone => unfold execEvXferDone at hr; split at hr <;> cases hr <;> exact h
  all_goals cases hr; exact h

/-- Every step keeps the property. -/
theorem kept_step {s t : State} (hcfg : s.config = cfg) (h : ∀ k ∈ s.ctxs, P k) (hr : step s = .next t) :
    ∀ k ∈ t.ctxs, P k := by
  rcases step_next_cases hr with ⟨_, e, _⟩ | ⟨e, _⟩ | ⟨i, ts, ws, e, _⟩ | ⟨_, e⟩ | ⟨_, e⟩ | ⟨_, e⟩ | ⟨_, e⟩ | ⟨_, _, e⟩
  · subst e; exact h
  · subst e; exact h
  · exact kept_exec kept (s := { s with turns := ts, cmdPort := ws }) hcfg h e
  · unfold dispatchXfer completionHandler at e
    split at e
    · cases e
      dsimp only
      split
      · exact h
      · exact forall_setCtx { s with turns := s.turns.tail, xferPend := false, consEn := true } _ _ h
          (kept.landed _ (kept_ctx kept (s := { s with turns := s.turns.tail }) h _))
    · cases e; exact h
  · unfold dispatchCons at e
    split at e
    · split at e <;> cases e
      exact kept_consumptionLogic kept (s := { s with turns := s.turns.tail }) h (.inl ⟨_, ‹_›⟩)
    · cases e; exact h
  · unfold startPhase2 at e
    split at e
    · exact kept_startTail kept (s := { s with turns := s.turns.tail, primeWait := false }) h e
    · cases e; exact h
  · subst e
    intro k hk
    exact (List.mem_replicate.mp hk).2 ▸ kept.reset
  · subst e; exact h

end

/-- All a run of the consumption logic may write: the contexts, the consumption interrupt's bits, the trace and the
transfer record; the number of contexts stays and the pending bit ends cleared. -/
theorem consumptionLogic_frame {s t : State}
    (h : (∃ b, consumptionLogic s = .ran t b) ∨ consumptionLogic s = .overlap t) :
    t = { s with
      ctxs := t.ctxs, consEn := t.consEn, consPend := false, trace := t.trace, xferBusy := t.xferBusy
      xferCtx := t.xferCtx, xferDst := t.xferDst, xferSrc := t.xferSrc, xferLen := t.xferLen
      xferSnap := t.xferSnap, xferWrites := t.xferWrites, xferLost := t.xferLost } ∧ t.nctx = s.nctx := by
  have he : ∀ a, enterIdle (acknowledge s) a =
      { s with ctxs := (enterIdle (acknowledge s) a).ctxs, consEn := false, consPend := false } ∧
      (enterIdle (acknowledge s) a).nctx = s.nctx := by
    intro a
    rcases enterIdle_cases (acknowledge s) a with e | ⟨_, e⟩ <;> rw [e]
    · exact ⟨rfl, rfl⟩
    · exact ⟨rfl, by simp⟩
  rcases consumptionLogic_cases s with ⟨_, e⟩ | ⟨a, u, _, hu, c⟩
  · rw [e] at h; rcases h with ⟨b, h⟩ | h <;> cases h; exact ⟨rfl, rfl⟩
  obtain ⟨h1, h2⟩ := he a
  rw [← hu] at h1 h2
  rcases c with ⟨_, e⟩ | ⟨_, _, e⟩ | ⟨hd, _, e⟩ <;> rw [e] at h <;> rcases h with ⟨b, h⟩ | h <;> cases h
  · unfold underrunBranch
    dsimp only
    split <;> rw [h1] <;> exact ⟨rfl, h2⟩
  · rw [h1]; exact ⟨rfl, h2⟩
  · refine ⟨?_, by simp [State.nctx, uploadChunk_ctxs]; exact h2⟩
    unfold uploadChunk startUpload reprogram requestRefill
    split
    · split <;> rw [h1] <;> rfl
    · rw [h1]; rfl

end Sys2Proof.Machine
end

