-- ==== Sys2Proof/Laws/PerInstr.lean ====
section
/-! SUPPORT. Laws/PerInstr.lean: the family RowMatch, one lemma per constructor of Instr: the encoding of an instruction,
whatever its operands, meets the match and mask of its row of the opcode table (R89, R96), and an event is an edge on a
line (R93). -/

namespace Sys2Proof.Laws.RowMatch

/-- The bits of `i` lie on the port of its row and match it. -/
def Statement (i : Instr) : Prop :=
  match encode i with
  | .command w => ∃ p m, commandRow i = some (p, m) ∧ w &&& m = p
  | .edges irq => i.port = .event ∧ irq ≠ 0
  | .output w => ∃ p m, outputRow i = some (p, m) ∧ w &&& m = p

/-- A command word meets a row once its fields do. -/
theorem command_row (op c a : BitVec 8) (i : Word) (m p : CommandWord)
    (h : commandWord (op &&& cwOp m) (c &&& cwCtx m) (a &&& cwAux m) (i &&& cwImm m) = p) :
    commandWord op c a i &&& m = p := (commandWord_and op c a i m).trans h

/-- An output word meets a row once its fields do. -/
theorem output_row (n ch : BitVec 8) (a b c : Word) (m p : OutputWord)
    (h : outputWord (n &&& dwKind m) (ch &&& dwCh m) (a &&& dwA m) (b &&& dwB m) (c &&& dwC m) = p) :
    outputWord n ch a b c &&& m = p := (outputWord_and n ch a b c m).trans h

theorem wrcfg (c : CtxNum) (r : BitVec 8) (v : Word) : Statement (.wrcfg c r v) :=
  ⟨_, _, rfl, command_row _ _ _ _ _ _ (by simp [cwOp, cwCtx, cwAux, cwImm, commandWord])⟩
theorem rdreg (c : CtxNum) (r : BitVec 8) : Statement (.rdreg c r) :=
  ⟨_, _, rfl, command_row _ _ _ _ _ _ (by simp [cwOp, cwCtx, cwAux, cwImm, commandWord])⟩
theorem wrbuf (c : CtxNum) (b : Byte) (o : Word) : Statement (.wrbuf c b o) :=
  ⟨_, _, rfl, command_row _ _ _ _ _ _ (by simp [cwOp, cwCtx, cwAux, cwImm, commandWord])⟩
theorem rdbuf (c : CtxNum) (o : Word) : Statement (.rdbuf c o) :=
  ⟨_, _, rfl, command_row _ _ _ _ _ _ (by simp [cwOp, cwCtx, cwAux, cwImm, commandWord])⟩
theorem init (c : CtxNum) : Statement (.init c) :=
  ⟨_, _, rfl, command_row _ _ _ _ _ _ (by simp [cwOp, cwCtx, cwAux, cwImm, commandWord])⟩
theorem destroy (c : CtxNum) : Statement (.destroy c) :=
  ⟨_, _, rfl, command_row _ _ _ _ _ _ (by simp [cwOp, cwCtx, cwAux, cwImm, commandWord])⟩
theorem start (c : CtxNum) (r : Bool) : Statement (.start c r) := by
  cases r <;> exact ⟨_, _, rfl, command_row _ _ _ _ _ _ (by simp [cwOp, cwCtx, cwAux, cwImm, commandWord, resumeImm])⟩
theorem stop  : Statement (.stop) :=
  ⟨_, _, rfl, command_row _ _ _ _ _ _ (by simp [cwOp, cwCtx, cwAux, cwImm, commandWord])⟩
theorem setrate (c : CtxNum) (v : Word) : Statement (.setrate c v) :=
  ⟨_, _, rfl, command_row _ _ _ _ _ _ (by simp [cwOp, cwCtx, cwAux, cwImm, commandWord])⟩
theorem isactive (c : CtxNum) : Statement (.isactive c) :=
  ⟨_, _, rfl, command_row _ _ _ _ _ _ (by simp [cwOp, cwCtx, cwAux, cwImm, commandWord])⟩
theorem reflen (c : CtxNum) : Statement (.reflen c) :=
  ⟨_, _, rfl, command_row _ _ _ _ _ _ (by simp [cwOp, cwCtx, cwAux, cwImm, commandWord])⟩
theorem feedptr (c : CtxNum) : Statement (.feedptr c) :=
  ⟨_, _, rfl, command_row _ _ _ _ _ _ (by simp [cwOp, cwCtx, cwAux, cwImm, commandWord])⟩
theorem feed (c : CtxNum) (n : Word) : Statement (.feed c n) :=
  ⟨_, _, rfl, command_row _ _ _ _ _ _ (by simp [cwOp, cwCtx, cwAux, cwImm, commandWord])⟩
theorem evConsEdge : Statement .evConsEdge := ⟨rfl, by decide⟩
theorem evXferDone : Statement .evXferDone := ⟨rfl, by decide⟩
theorem setLoop (ch : BitVec 8) (a : Word) : Statement (.setLoop ch a) :=
  ⟨_, _, rfl, output_row _ _ _ _ _ _ _ (by simp [dwKind, dwCh, dwA, dwB, dwC, outputWord])⟩
theorem setIrqAddr (a : Word) : Statement (.setIrqAddr a) :=
  ⟨_, _, rfl, output_row _ _ _ _ _ _ _ (by simp [dwKind, dwCh, dwA, dwB, dwC, outputWord])⟩
theorem xferStart (c : CtxNum) (d o l : Word) : Statement (.xferStart c d o l) :=
  ⟨_, _, rfl, output_row _ _ _ _ _ _ _ (by simp [dwKind, dwCh, dwA, dwB, dwC, outputWord])⟩
theorem keyOn (m : Word) : Statement (.keyOn m) :=
  ⟨_, _, rfl, output_row _ _ _ _ _ _ _ (by simp [dwKind, dwCh, dwA, dwB, dwC, outputWord])⟩
theorem keyOff (m : Word) : Statement (.keyOff m) :=
  ⟨_, _, rfl, output_row _ _ _ _ _ _ _ (by simp [dwKind, dwCh, dwA, dwB, dwC, outputWord])⟩
theorem setPitch (ch : BitVec 8) (p : Word) : Statement (.setPitch ch p) :=
  ⟨_, _, rfl, output_row _ _ _ _ _ _ _ (by simp [dwKind, dwCh, dwA, dwB, dwC, outputWord])⟩
theorem setEnv (ch : BitVec 8) (e : Word) : Statement (.setEnv ch e) :=
  ⟨_, _, rfl, output_row _ _ _ _ _ _ _ (by simp [dwKind, dwCh, dwA, dwB, dwC, outputWord])⟩
theorem setStart (ch : BitVec 8) (a : Word) : Statement (.setStart ch a) :=
  ⟨_, _, rfl, output_row _ _ _ _ _ _ _ (by simp [dwKind, dwCh, dwA, dwB, dwC, outputWord])⟩
theorem cbRefill (c : CtxNum) (h : Word) : Statement (.cbRefill c h) :=
  ⟨_, _, rfl, output_row _ _ _ _ _ _ _ (by simp [dwKind, dwCh, dwA, dwB, dwC, outputWord])⟩
theorem cbUnderrun (c : CtxNum) (h : Word) : Statement (.cbUnderrun c h) :=
  ⟨_, _, rfl, output_row _ _ _ _ _ _ _ (by simp [dwKind, dwCh, dwA, dwB, dwC, outputWord])⟩

end Sys2Proof.Laws.RowMatch
end

