-- ==== Sys2Proof/Tests/Slice0.lean ====
section
/-! SUPPORT. Tests/Slice0.lean: words of the spec decoded, the well-formedness checks refusing, one-step vectors of
96_derived_vectors.md, and for every obligation with hypotheses a concrete state that meets them. -/

namespace Sys2Proof.Machine

/-! ## Decoding: the words of 96_derived_vectors.md 3.1, one for every row of the opcode table -/

theorem test_decode_wrcfg : decodeTableWord 64 0x0101000512345678 = some (.wrcfg 1 5 0x12345678) := by decide
theorem test_decode_rdreg : decodeTableWord 64 0x0201001600000000 = some (.rdreg 1 0x16) := by decide
theorem test_decode_wrbuf : decodeTableWord 64 0x030000AB00000011 = some (.wrbuf 0 0xAB 17) := by decide
theorem test_decode_rdbuf : decodeTableWord 64 0x040100000000FFFF = some (.rdbuf 1 0xFFFF) := by decide
theorem test_decode_init : decodeTableWord 64 0x1001000000000000 = some (.init 1) := by decide
theorem test_decode_destroy : decodeTableWord 64 0x1100000000000000 = some (.destroy 0) := by decide
theorem test_decode_start : decodeTableWord 64 0x1201000000000000 = some (.start 1 false) := by decide
theorem test_decode_start_resume : decodeTableWord 64 0x1200000000000001 = some (.start 0 true) := by decide
theorem test_decode_stop : decodeTableWord 64 0x1300000000000000 = some .stop := by decide
theorem test_decode_setrate : decodeTableWord 64 0x1400000000005622 = some (.setrate 0 22050) := by decide
theorem test_decode_isactive : decodeTableWord 64 0x1501000000000000 = some (.isactive 1) := by decide
theorem test_decode_reflen : decodeTableWord 64 0x1600000000000000 = some (.reflen 0) := by decide
theorem test_decode_feedptr : decodeTableWord 64 0x1701000000000000 = some (.feedptr 1) := by decide
theorem test_decode_feed : decodeTableWord 64 0x1800000000001000 = some (.feed 0 4096) := by decide
theorem test_decode_consEdge : decodeTableWord 8 0b01 = some .evConsEdge := by decide
theorem test_decode_xferDone : decodeTableWord 8 0b10 = some .evXferDone := by decide
theorem test_decode_setLoop :
    decodeTableWord 128 0x01020000000043000000000000000000 = some (.setLoop 2 0x4300) := by decide
theorem test_decode_setIrqAddr :
    decodeTableWord 128 0x02000000000042000000000000000000 = some (.setIrqAddr 0x4200) := by decide
theorem test_decode_xferStart :
    decodeTableWord 128 0x03010000000042000000020000000200 = some (.xferStart 1 0x4200 512 512) := by decide
theorem test_decode_keyOn : decodeTableWord 128 0x04000000000000050000000000000000 = some (.keyOn 5) := by decide
theorem test_decode_keyOff :
    decodeTableWord 128 0x0500000000FFFFFF0000000000000000 = some (.keyOff 0xFFFFFF) := by decide
theorem test_decode_setPitch :
    decodeTableWord 128 0x06170000000056220000000000000000 = some (.setPitch 23 0x5622) := by decide
theorem test_decode_setEnv : decodeTableWord 128 0x07000000000000010000000000000000 = some (.setEnv 0 1) := by decide
theorem test_decode_setStart :
    decodeTableWord 128 0x08020000000010000000000000000000 = some (.setStart 2 0x1000) := by decide
theorem test_decode_cbRefill :
    decodeTableWord 128 0x10010000CAFE00010000000000000000 = some (.cbRefill 1 0xCAFE0001) := by decide
theorem test_decode_cbUnderrun :
    decodeTableWord 128 0x11000000CAFE00020000000000000000 = some (.cbUnderrun 0 0xCAFE0002) := by decide

/-- The refused words of 96_derived_vectors.md 3.1, and output words with a bad kind or a zero field set (R95, R97). -/
theorem test_decode_refuses :
    decode (.command 0x1900000000000000) = .error .unknownOpcode ∧
    decode (.command 0x1000010000000000) = .error .nonzeroField ∧
    decode (.command 0x1301000000000000) = .error .nonzeroField ∧
    decode (.command 0x1200000000000002) = .error .nonzeroField ∧
    decode (.command 0x0200001200000001) = .error .nonzeroField ∧
    decode (.command 0x0400000100000000) = .error .nonzeroField ∧
    decode (.edges 0b00) = .error .noEdge ∧
    decode (.output 0x09000000000000000000000000000000) = .error .unknownKind ∧
    decode (.output 0x04010000000000050000000000000000) = .error .nonzeroArgument ∧
    decode (.output 0x01000001000000050000000000000000) = .error .nonzeroArgument := by decide

/-- The first words of E1: `CONFIG` and the last word of its second `FILL`. -/
theorem test_pseudo_expansions :
    (pseudoConfig 0 1 1024 44100 0x8000 4096 2048 0x11 0x22).map encode =
      [.command 0x0100000000000001, .command 0x0100000100000400, .command 0x010000020000AC44,
       .command 0x0100000300008000, .command 0x0100000400001000, .command 0x0100000500000800,
       .command 0x0100000600000011, .command 0x0100000700000022] ∧
    (pseudoFill 0 0x7FE 2 0xC1).map encode = [.command 0x030000C1000007FE, .command 0x030000C1000007FF] ∧
    (pseudoResume 0).map encode = [.command 0x1200000000000001] ∧ pseudoPause.map encode = [.command 0x1300000000000000] := by
  decide

/-! ## Well-formedness: each check refuses an ill-formed term -/

theorem test_illformed_setLoop : (Instr.setLoop 24 0).wellFormed Config.default 2 = false := by decide
theorem test_illformed_setPitch : (Instr.setPitch 24 0).wellFormed Config.default 2 = false := by decide
theorem test_illformed_setStart : (Instr.setStart 255 0).wellFormed Config.default 2 = false := by decide
theorem test_illformed_setEnv_channel : (Instr.setEnv 24 1).wellFormed Config.default 2 = false := by decide
theorem test_illformed_setEnv_value : (Instr.setEnv 0 0).wellFormed Config.default 2 = false := by decide
theorem test_illformed_keyOn : (Instr.keyOn 0x1000000).wellFormed Config.default 2 = false := by decide
theorem test_illformed_keyOff : (Instr.keyOff 0xFF000001).wellFormed Config.default 2 = false := by decide
theorem test_illformed_xferStart : (Instr.xferStart 2 0 0 0).wellFormed Config.default 2 = false := by decide
theorem test_illformed_cbRefill_context : (Instr.cbRefill 2 1).wellFormed Config.default 2 = false := by decide
theorem test_illformed_cbRefill_handle : (Instr.cbRefill 0 0).wellFormed Config.default 2 = false := by decide
theorem test_illformed_cbUnderrun_context : (Instr.cbUnderrun 255 1).wellFormed Config.default 2 = false := by decide
theorem test_illformed_cbUnderrun_handle : (Instr.cbUnderrun 1 0).wellFormed Config.default 2 = false := by decide
theorem test_wellformed_boundary :
    (Instr.setLoop 23 0).wellFormed Config.default 2 = true ∧
    (Instr.keyOn 0xFFFFFF).wellFormed Config.default 2 = true ∧
    (Instr.xferStart 1 0 0 0).wellFormed Config.default 2 = true := by decide

/-! ## Small states -/

/-- The context of V-S1 to V-S10 of 96_derived_vectors.md 3.3. -/
def voice : Context :=
  { Context.reset with
    chmask := 0x5, interleave := 0x100, rate := 44100, devbase := 0x4000, capacity := 0x800, thresh := 0x400
    cbRefill := 0x11, cbUnderrun := 0x22, chunk := 0x200, alloc := true, phase := .playing }

/-- `voice` with `n` bytes buffered from offset 0. -/
def voiceWith (n : Word) : Context := { voice with head := n, length := n }

/-- Context 0 is `k`, no stream is active, the block's vectors are installed. -/
def ready (k : Context) (ts : List Turn) : State :=
  { State.reset with ctxs := [k, Context.reset], vecCons := 1, vecXfer := 2, turns := ts }

/-- `ready` with context 0 active and a consumption interrupt pending. -/
def streaming (k : Context) (ts : List Turn) : State :=
  { ready k ts with active := some 0, consEn := true, consPend := true }

/-- `ready` with one command word waiting. -/
def commanded (k : Context) (w : CommandWord) : State := { ready k [.host] with cmdPort := [w] }

/-- The response registers of an outcome. -/
def response : Result → Option (BitVec 8 × Word × Word)
  | .next t => some (t.rstat, t.rval0, t.rval1)
  | _ => none

/-- A field of the state an outcome leaves. -/
def after {α : Type} (r : Result) (f : State → α) : Option α :=
  match r with
  | .next t => some (f t)
  | _ => none

/-! ## One step of each instruction -/

/-- V-K1b: `CHMASK` keeps the 24 bits that exist. -/
theorem test_wrcfg_chmask :
    after (exec (.wrcfg 0 0 0xFFFFFFFF) State.reset) (fun t => (t.ctx 0).chmask) = some 0xFFFFFF := by decide
/-- 3.1: `WRCFG` may not name `HEAD`. -/
theorem test_wrcfg_head : response (step (commanded Context.reset 0x0100001000000005)) = some (4, 0, 0) := by decide
/-- V-S1: `FLAGS` = 0x17 while an upload is on, with the refill requested. -/
theorem test_rdreg_flags :
    response (exec (.rdreg 0 0x15)
      (ready { voice with buffering := true, cbissued := true, phase := .uploading } [])) = some (0, 0x17, 0) := by decide
/-- 3.1: register 0x25 is reserved. -/
theorem test_rdreg_reserved : response (exec (.rdreg 0 0x25) State.reset) = some (4, 0, 0) := by decide
/-- V-R1: offset 2047 is the last legal one. -/
theorem test_wrbuf_last :
    after (exec (.wrbuf 0 0xEE 2047) (ready voice [])) (fun t => (t.rstat, t.bufByte 0 2047)) = some (0, some 0xEE) := by
  decide
/-- V-R1: offset 2048 = `CAPACITY` is refused. -/
theorem test_wrbuf_past : response (exec (.wrbuf 0 0xEE 2048) (ready voice [])) = some (4, 0, 0) := by decide
/-- V-R1: the byte written is read back, 238. -/
theorem test_rdbuf : response (exec (.rdbuf 0 2047) (ready { voice with buf := [(2047, 0xEE)] } [])) = some (0, 238, 0) := by
  decide
/-- V-K1b: 24 channels of 1 byte, 65536 bytes. -/
theorem test_init_all_channels :
    after (exec (.init 0) (ready { Context.reset with chmask := 0xFFFFFF, interleave := 1, capacity := 65536 } []))
      (fun t => (t.rstat, (t.ctx 0).chunk, (t.ctx 0).alloc, t.vecCons, t.vecXfer)) = some (0, 24, true, 1, 2) := by decide
/-- V-K4: `NO_CHANNEL` before `ALLOC_FAIL`. -/
theorem test_init_no_channel :
    after (exec (.init 0) (ready { Context.reset with interleave := 512 } []))
      (fun t => (t.rstat, t.rval0, t.fatal, (t.ctx 0).alloc)) = some (6, 1, 1, false) := by decide
/-- R165: the saved vectors come back. -/
theorem test_destroy :
    after (exec (.destroy 0) (ready { voice with savedVecCons := 7, savedVecXfer := 9, buf := [(0, 1)] } []))
      (fun t => (t.rstat, (t.ctx 0).alloc, t.vecCons, t.vecXfer, t.bufByte 0 0)) = some (0, false, 7, 9, none) := by decide
/-- R160: the active context is not destroyed. -/
theorem test_destroy_active : response (exec (.destroy 0) (streaming voice [])) = some (3, 0, 0) := by decide
/-- R168: `START c0, 1` programs two channels, takes one chunk (five words, as in V-S1) and ends with `KEY_ON`. -/
theorem test_start_resume :
    after (exec (.start 0 true) (ready (voiceWith 0x600) []))
      (fun t => (t.rstat, t.rval0, (t.ctx 0).length, t.trace.length, t.trace.getLast?)) =
      some (0, 1, 0x400, 12, some 0x04000000000000050000000000000000) := by decide
/-- R166 step 3: a priming upload suspends the command. -/
theorem test_start_primes :
    after (exec (.start 0 false) (ready (voiceWith 0x600) [])) (fun t => (t.primeWait, t.active, t.xferBusy)) =
      some (true, some 0, true) := by decide
/-- R169: `KEY_OFF`, then `SET_START` and `SET_LOOP` at the silent address for channels 0 and 2. -/
theorem test_stop :
    after (exec .stop (streaming voice [])) (fun t => (t.active, t.rval0, t.trace)) =
      some (none, 1, [0x05000000000000050000000000000000,
        0x08000000000010000000000000000000, 0x01000000000010000000000000000000,
        0x08020000000010000000000000000000, 0x01020000000010000000000000000000]) := by decide
/-- R170: one `SET_PITCH` for each channel of the active stream. -/
theorem test_setrate :
    after (exec (.setrate 0 22050) (streaming voice [])) (fun t => ((t.ctx 0).rate, t.trace)) =
      some (22050, [setPitchWord 0 (Config.pitchOf 22050), setPitchWord 2 (Config.pitchOf 22050)]) := rfl
/-- R171: an uninitialised context may be asked about. -/
theorem test_isactive : response (exec (.isactive 0) State.reset) = some (0, 0, 0) := by decide
/-- V-R3: the free space. -/
theorem test_reflen :
    response (exec (.reflen 0) (ready { voice with head := 1536, tail := 1024, length := 512 } [])) = some (0, 1536, 0) := by
  decide
/-- V-R3: the contiguous run ends at the end of the ring. -/
theorem test_feedptr :
    response (exec (.feedptr 0) (ready { voice with head := 1536, tail := 1024, length := 512 } [])) =
      some (0, 1536, 512) := by decide
/-- V-R3: `HEAD` wraps. -/
theorem test_feed_wraps :
    after (exec (.feed 0 1000) (ready { voice with head := 1536, tail := 1024, length := 512 } []))
      (fun t => (t.rval0, (t.ctx 0).head, (t.ctx 0).length)) = some (1000, 488, 1512) := by decide
/-- V-R2: a level at the threshold keeps the request, one above clears it. -/
theorem test_feed_rearms :
    after (exec (.feed 0 0) (ready { voiceWith 1024 with cbissued := true } [])) (fun t => (t.ctx 0).cbissued) = some true ∧
    after (exec (.feed 0 1) (ready { voiceWith 1024 with cbissued := true } [])) (fun t => (t.ctx 0).cbissued) =
      some false := by decide
/-- V-S12: an edge while the interrupt is disabled is lost. -/
theorem test_consEdge :
    after (step { ready voice [.edges 1] with consEn := true }) (fun t => t.consPend) = some true ∧
    after (step (ready voice [.edges 1])) (fun t => t.consPend) = some false := by decide
/-- V-C1: the bytes land, and `XFER_BUSY` moves to `XFER_PEND`. -/
theorem test_xferDone :
    after (exec .evXferDone
      { ready voice [] with
        xferBusy := true, xferDst := 0xFFFFFFFF, xferSrc := 5, xferLen := 2, xferSnap := [(5, 0xD0), (6, 0xD1)] })
      (fun t => (t.xferBusy, t.xferPend, t.devByte 0xFFFFFFFF, t.devByte 0, t.devByte 1)) =
      some (false, true, some 0xD0, some 0xD1, none) := by decide
/-- V-S1: the words of a consumption cycle, in order. -/
theorem test_dispatchCons_upload :
    after (step (streaming { voiceWith 0x600 with chunkcnt := 7 } [.dispatchCons])) (fun t => (t.trace, (t.ctx 0).chunkcnt)) =
      some ([0x10000000000000110000000000000000, 0x02000000000042000000000000000000,
        0x01000000000042000000000000000000, 0x01020000000043000000000000000000,
        0x03000000000042000000000000000200], 8) := by decide
/-- V-S2, V-S3: one byte less than a chunk underruns, a chunk does not. -/
theorem test_dispatchCons_underrun :
    after (step (streaming { voiceWith 0x1FF with cbUnderrun := 0 } [.dispatchCons]))
      (fun t => (t.trace, t.consEn, (t.ctx 0).phase)) = some ([], true, .idle) ∧
    after (step (streaming (voiceWith 0x200) [.dispatchCons])) (fun t => ((t.ctx 0).length, t.consEn)) = some (0, false) := by
  decide
/-- V-C3: completion first, and it leaves the consumption request pending. -/
theorem test_dispatchXfer :
    after (step { streaming { voiceWith 0x600 with phase := .uploading, buffering := true } [.dispatchXfer] with xferPend := true })
      (fun t => (t.consPend, t.xferPend, (t.ctx 0).phase, (t.ctx 0).buffering)) = some (true, false, .playing, false) := by
  decide
/-- R95: each output word put on the output port is appended to the trace. -/
theorem test_output_words :
    after (step (ready voice [.output 0x01020000000043000000000000000000])) (fun t => t.trace) =
      some [0x01020000000043000000000000000000] ∧
    after (exec (.setIrqAddr 0x4200) State.reset) (fun t => t.trace) = some [0x02000000000042000000000000000000] ∧
    after (exec (.xferStart 1 0x4200 512 512) State.reset) (fun t => t.trace) = some [0x03010000000042000000020000000200] ∧
    after (exec (.keyOn 5) State.reset) (fun t => t.trace) = some [0x04000000000000050000000000000000] ∧
    after (exec (.keyOff 0xFFFFFF) State.reset) (fun t => t.trace) = some [0x0500000000FFFFFF0000000000000000] ∧
    after (exec (.setPitch 23 0x5622) State.reset) (fun t => t.trace) = some [0x06170000000056220000000000000000] ∧
    after (exec (.setEnv 0 1) State.reset) (fun t => t.trace) = some [0x07000000000000010000000000000000] ∧
    after (exec (.setStart 2 0x1000) State.reset) (fun t => t.trace) = some [0x08020000000010000000000000000000] ∧
    after (exec (.cbRefill 1 0xCAFE0001) State.reset) (fun t => t.trace) = some [0x10010000CAFE00010000000000000000] ∧
    after (exec (.cbUnderrun 0 0xCAFE0002) State.reset) (fun t => t.trace) = some [0x11000000CAFE00020000000000000000] := by
  decide
/-- The first step after reset runs the word placed, for each port. -/
theorem test_withFetchWord :
    response (step (State.reset.withFetchWord 64 0x1500000000000000)) = some (0, 0, 0) ∧
    response (step (State.reset.withFetchWord 64 0x1000000000000000)) = some (6, 1, 0) ∧
    after (step (State.reset.withFetchWord 8 2)) (fun t => t.xferPend) = some false ∧
    after (step (State.reset.withFetchWord 128 0x04000000000000050000000000000000)) (fun t => t.trace.length) = some 1 := by
  decide
/-! ## A state that meets the hypotheses of each obligation, for each clause at a boundary of its range -/

/-- An uninitialised, configured context: two channels of 0x100 bytes, the smallest capacity `INIT` accepts. -/
def configured : Context := { Context.reset with chmask := 0x3, interleave := 0x100, capacity := 1 }

/-- A halted block whose turns are `ts`. -/
def halted (ts : List Turn) : State := { streaming voice ts with fatal := 1, vecCons := 1, xferPend := true }

theorem witness_DecodedWordsEncodeBack :
    (∃ w i, decode (.command w) = .ok i) ∧ (∃ dw i, decode (.output dw) = .ok i) :=
  ⟨⟨0x1300000000000000, .stop, by decide⟩, ⟨0x04000000000000050000000000000000, .keyOn 5, by decide⟩⟩

/-- Both directions: a `START` word is its row's, and one with `imm[1]` set is not. -/
theorem witness_CommandWordsFollowTheOpcodeMap :
    ∃ p m, commandRow (.start 0 true) = some (p, m) ∧ (0x1200000000000001 : CommandWord) &&& m = p ∧
      (0x1200000000000002 : CommandWord) &&& m ≠ p := ⟨_, _, rfl, by decide, by decide⟩

theorem witness_OutputWordsFollowTheKindTable :
    ∃ p m, outputRow (.keyOn 5) = some (p, m) ∧ (0x04000000000000050000000000000000 : OutputWord) &&& m = p ∧
      (0x04010000000000050000000000000000 : OutputWord) &&& m ≠ p := ⟨_, _, rfl, by decide, by decide⟩

theorem witness_IllegalWordsAreOnlyAnswered :
    let s := commanded voice 0x1300000000000001
    s.turns = [.host] ∧ s.primeWait = false ∧ s.cmdPort = [0x1300000000000001] ∧
      ∀ i p m, commandRow i = some (p, m) → (0x1300000000000001 : CommandWord) &&& m ≠ p := by
  refine ⟨rfl, rfl, rfl, ?_⟩
  intro i p m h
  cases i <;> simp only [commandRow, Option.some.injEq, Prod.mk.injEq, reduceCtorEq] at h <;>
    obtain ⟨rfl, rfl⟩ := h <;> decide

theorem witness_StepRunsTheDecodedInstruction :
    (let s := commanded voice 0x1300000000000000
     s.turns = [.host] ∧ s.primeWait = false ∧ s.cmdPort = [0x1300000000000000] ∧
       decode (.command 0x1300000000000000) = .ok .stop) ∧
    ((ready voice [.edges 3]).turns = [.edges 3] ∧ decode (.edges 3) = .ok .evConsEdge) ∧
    ((ready voice [.output 0x04000000000000050000000000000000]).turns = [.output 0x04000000000000050000000000000000] ∧
      decode (.output 0x04000000000000050000000000000000) = .ok (.keyOn 5)) ∧
    (let s := { ready voice [.host] with primeWait := true }
     s.turns = [.host] ∧ s.primeWait = true) := by decide

/-- A halted block: one state with each of the three internal steps next, and a step of it that goes on. -/
theorem witness_HaltedBlockOnlyAnswersUntilReset :
    (halted [.dispatchXfer]).fatal ≠ 0 ∧ (halted [.dispatchXfer]).turns = [.dispatchXfer] ∧
    (halted [.dispatchCons]).turns = [.dispatchCons] ∧ (halted [.startPhase2]).turns = [.startPhase2] ∧
    (Instr.start 0 true).port = .command ∧ (∀ c r, Instr.start 0 true ≠ .rdreg c r) ∧
    (∃ t, step (halted [.dispatchCons]) = .next t) ∧ (halted [.dispatchCons]).nextTurn ≠ some .reset :=
  ⟨by decide, rfl, rfl, rfl, rfl, nofun, ⟨_, rfl⟩, by decide⟩

theorem witness_OnlyInitRaisesAFatalAbort :
    ∃ t, step (commanded Context.reset 0x1000000000000000) = .next t ∧
      (commanded Context.reset 0x1000000000000000).fatal = 0 ∧ t.fatal ≠ 0 := ⟨_, rfl, rfl, by decide⟩

/-- One command for each of the five clauses: halted; context `NCTX`; register 0x08; a state check; offset `CAPACITY`. -/
theorem witness_FirstFailingCheckAnswers :
    (¬ HaltCheck (halted []) .stop) ∧
    (HaltCheck (ready voice []) (.feed 2 0) ∧ ¬ ContextCheck (ready voice []) (.feed 2 0)) ∧
    (HaltCheck (ready voice []) (.wrcfg 1 8 0) ∧ ContextCheck (ready voice []) (.wrcfg 1 8 0) ∧
      ¬ RegisterCheck (.wrcfg 1 8 0)) ∧
    (HaltCheck (ready voice []) (.wrcfg 0 7 0) ∧ ContextCheck (ready voice []) (.wrcfg 0 7 0) ∧
      RegisterCheck (.wrcfg 0 7 0) ∧ ¬ StateCheck (ready voice []) (.wrcfg 0 7 0)) ∧
    (HaltCheck (ready voice []) (.rdbuf 0 0x800) ∧ ContextCheck (ready voice []) (.rdbuf 0 0x800) ∧
      RegisterCheck (.rdbuf 0 0x800) ∧ StateCheck (ready voice []) (.rdbuf 0 0x800) ∧
      ¬ OffsetCheck (ready voice []) (.rdbuf 0 0x800)) := by
  unfold HaltCheck ContextCheck RegisterCheck StateCheck OffsetCheck
  refine ⟨by simp [halted], ⟨.inl rfl, fun h => absurd (h 2 rfl) (by decide)⟩,
    ⟨.inl rfl, fun c h => by cases h; decide, by decide⟩,
    ⟨.inl rfl, fun c h => by cases h; decide, by decide, by decide⟩,
    ⟨.inl rfl, fun c h => by cases h; decide, trivial, rfl, by decide⟩⟩

/-- Registers 7 and 8 are the two sides of the range, on an initialised and on an uninitialised context. -/
theorem witness_WrcfgWritesOneConfigurationRegister :
    Ready (ready voice []) 0 ∧ Ready (ready voice []) 1 ∧ 0x07 < (0x08 : BitVec 8).toNat ∧
    ((0x07 : BitVec 8).toNat ≤ 0x07 ∧ ((ready voice []).ctx 0).alloc = true) ∧
    ((0x00 : BitVec 8).toNat ≤ 0x07 ∧ ((ready voice []).ctx 1).alloc = false) := by unfold Ready; decide

/-- Context 1 of 2 exists, its first and last registers are in the map, and the number after each group is not. -/
theorem witness_RdregReadsTheRegisterMap :
    (1 : CtxNum).toNat < (ready voice []).nctx ∧ (0x00, 0) ∈ registerMap (ready voice []) 1 ∧
    (0x24, 2) ∈ registerMap (ready voice []) 1 ∧ (0x08 : BitVec 8).toNat ∉ registerNumbers ∧
    (0x19 : BitVec 8).toNat ∉ registerNumbers ∧ (0x25 : BitVec 8).toNat ∉ registerNumbers := by decide

/-- V-K1 to V-K5: every outcome of `INIT` at the edge of its condition. -/
theorem witness_InitFollowsItsSteps :
    (let s := ready configured []
     Ready s 0 ∧ (s.ctx 0).alloc = false ∧ popcount (chmaskOf s.config (s.ctx 0)) ≠ 0 ∧
       (s.ctx 0).interleave.toNat * popcount (chmaskOf s.config (s.ctx 0)) < 2 ^ 32 ∧
       1 ≤ (s.ctx 0).capacity.toNat ∧ (s.ctx 0).capacity.toNat ≤ s.config.maxCap ∧ s.allocOk = true) ∧
    (let s := ready { configured with capacity := 65537 } []
     Ready s 0 ∧ ¬ (s.ctx 0).capacity.toNat ≤ s.config.maxCap) ∧
    (let s := ready { configured with interleave := 0x80000000 } []
     Ready s 0 ∧ 2 ^ 32 ≤ (s.ctx 0).interleave.toNat * popcount (chmaskOf s.config (s.ctx 0))) ∧
    (let s := ready { configured with chmask := 0xFF000000 } []
     Ready s 0 ∧ popcount (chmaskOf s.config (s.ctx 0)) = 0) ∧
    (Ready (ready voice []) 0 ∧ ((ready voice []).ctx 0).alloc = true) ∧
    (let s := { ready configured [] with xferBusy := true, xferCtx := 0 }
     Ready s 0 ∧ sourceLost s 0 = true ∧ sourceLost s 1 = false) := by unfold Ready; decide

theorem witness_DestroyReleasesTheContext :
    (let s := { ready voice [] with xferBusy := true, xferCtx := 0 }
     Ready s 0 ∧ (s.ctx 0).alloc = true ∧ s.active ≠ some 0 ∧ sourceLost s 0 = true ∧ sourceLost s 1 = false) ∧
    (Ready (ready voice []) 0 ∧ ((ready voice []).ctx 0).alloc = true ∧ (ready voice []).active ≠ some 0) ∧
    (Ready (ready voice []) 1 ∧ ((ready voice []).ctx 1).alloc = false) ∧
    (Ready (streaming voice []) 0 ∧ (streaming voice []).active = some 0) := by unfold Ready; decide

theorem witness_ContentionAnswersFalse :
    (RingReady (streaming voice []) 0 ∧ (streaming voice []).active = some 0) ∧
    ((ready voice []).fatal = 0 ∧ (ready voice []).active = none) := by unfold RingReady Ready; decide

/-- Exactly one chunk buffered. -/
theorem witness_StartPrimesAndSuspends :
    let s := ready (voiceWith 0x200) []
    RingReady s 0 ∧ s.active = none ∧ (s.ctx 0).chunk.toNat ≤ (s.ctx 0).length.toNat ∧ s.xferBusy = false := by
  unfold RingReady Ready; decide

/-- Both ways the run of the logic ends: an upload with a chunk and no transfer, an underrun with one byte less. -/
theorem witness_StartResumesPlayback :
    (let s := ready (voiceWith 0x200) []
     RingReady s 0 ∧ s.active = none ∧ s.xferBusy = false) ∧
    (let s := { ready (voiceWith 0x1FF) [] with xferBusy := true }
     RingReady s 0 ∧ s.active = none ∧ (s.ctx 0).length.toNat < (s.ctx 0).chunk.toNat) := by
  unfold RingReady Ready; decide

theorem witness_StartPlaysOnAfterAPrimingUnderrun :
    let s := ready (voiceWith 0x1FF) []
    RingReady s 0 ∧ s.active = none ∧ (s.ctx 0).length.toNat < (s.ctx 0).chunk.toNat := by
  unfold RingReady Ready; decide

theorem witness_StartPhase2EndsThePrimingWait :
    (let s := { streaming (voiceWith 0x200) [.startPhase2] with primeWait := true }
     s.turns = [.startPhase2] ∧ s.primeWait = true ∧ s.fatal = 0 ∧ s.active = some 0 ∧ (0 : CtxNum).toNat < s.nctx ∧
       (s.ctx 0).buffering = false ∧ s.xferBusy = false) ∧
    ((ready voice [.startPhase2]).primeWait = false) ∧
    ((halted [.startPhase2]).fatal ≠ 0) ∧
    (let s := streaming { voice with buffering := true } [.startPhase2]
     s.active = some 0 ∧ (s.ctx 0).buffering = true) := by decide

theorem witness_StopSilencesTheActiveStream :
    (streaming voice []).fatal = 0 ∧ (streaming voice []).active = some 0 := by decide

theorem witness_SetrateReprogramsThePlayingStream :
    (Ready (streaming voice []) 0 ∧ ((streaming voice []).ctx 0).alloc = true ∧ (streaming voice []).active = some 0) ∧
    ((ready voice []).active ≠ some 0 ∧ ((ready voice []).ctx 0).alloc = true) ∧
    (Ready (ready voice []) 1 ∧ ((ready voice []).ctx 1).alloc = false) := by unfold Ready; decide

theorem witness_IsactiveIsAPureQuery :
    (Ready (streaming voice []) 0 ∧ (streaming voice []).active = some 0) ∧
    (Ready (streaming voice []) 1 ∧ (streaming voice []).active ≠ some 1) := by unfold Ready; decide

/-- An empty ring, a full one and an uninitialised one. -/
theorem witness_FreeSpaceQueriesAnswer :
    (Ready (ready voice []) 0 ∧ ((ready voice []).ctx 0).alloc = true ∧ RingOk ((ready voice []).ctx 0)) ∧
    RingOk { voice with length := 0x800 } ∧ (Ready (ready voice []) 1 ∧ ((ready voice []).ctx 1).alloc = false) := by
  unfold Ready RingOk; decide

/-- A ring that wraps, with the level at the threshold. -/
theorem witness_FeedCommitsTheClampedCount :
    (let s := ready { voice with head := 0x200, tail := 0x600, length := 0x400, cbissued := true } []
     Ready s 0 ∧ (s.ctx 0).alloc = true ∧ RingOk (s.ctx 0)) ∧
    (Ready (ready voice []) 1 ∧ ((ready voice []).ctx 1).alloc = false) := by unfold Ready RingOk; decide

/-- The last legal offset and the first illegal one; a transfer in flight out of the same RAM and out of another. -/
theorem witness_WrbufStoresOneByte :
    (let s := { ready voice [] with xferBusy := true, xferCtx := 0 }
     Ready s 0 ∧ (s.ctx 0).alloc = true ∧ s.xferBusy = true ∧ s.xferCtx = 0) ∧
    (let s := { ready voice [] with xferBusy := true, xferCtx := 1 }
     Ready s 0 ∧ (s.ctx 0).alloc = true ∧ ¬ (s.xferBusy = true ∧ s.xferCtx = 0)) ∧
    Ready (ready voice []) 0 ∧ ((ready voice []).ctx 0).alloc = true ∧
    (0x7FF : Word).toNat < ((ready voice []).ctx 0).capacity.toNat ∧
    ((ready voice []).ctx 0).capacity.toNat ≤ (0x800 : Word).toNat ∧
    (Ready (ready voice []) 1 ∧ ((ready voice []).ctx 1).alloc = false) := by unfold Ready; decide

/-- The last legal offset, written and not written, and the first illegal one. -/
theorem witness_RdbufAnswersTheByte :
    (let s := ready { voice with buf := [(0x7FF, 0xEE)] } []
     Ready s 0 ∧ (s.ctx 0).alloc = true ∧ s.bufByte 0 0x7FF = some 0xEE ∧ s.bufByte 0 0 = none ∧
       (0x7FF : Word).toNat < (s.ctx 0).capacity.toNat ∧ (s.ctx 0).capacity.toNat ≤ (0x800 : Word).toNat) ∧
    (Ready (ready voice []) 1 ∧ ((ready voice []).ctx 1).alloc = false) := by unfold Ready; decide

theorem witness_RdbufReadsWhatWrbufWrote :
    RingReady (ready voice []) 0 ∧ (0x7FF : Word).toNat < ((ready voice []).ctx 0).capacity.toNat := by
  unfold RingReady Ready; decide

theorem witness_FeedSequencesAccumulate :
    RingReady (ready (voiceWith 0x600) []) 0 ∧ RingOk ((ready (voiceWith 0x600) []).ctx 0) := by
  unfold RingReady Ready RingOk; decide

/-- Four chunks into an empty ring that stands one byte below its end. -/
theorem witness_FeedingThenConsumingEmptiesTheRing :
    let k := { voice with head := 0x7FF, tail := 0x7FF }
    k.alloc = true ∧ RingOk k ∧ k.length = 0 ∧ (0x800 : Word).toNat = 4 * k.chunk.toNat ∧
      (0x800 : Word).toNat ≤ k.capacity.toNat := by unfold RingOk; decide

theorem witness_UnderrunReenablesTheInterrupt :
    let s := streaming (voiceWith 0x1FF) []
    s.active = some 0 ∧ (0 : CtxNum).toNat < s.nctx ∧ (s.ctx 0).length.toNat < (s.ctx 0).chunk.toNat := by decide

theorem witness_ConsumptionTakesOneChunk :
    let s := streaming (voiceWith 0x200) []
    s.active = some 0 ∧ (0 : CtxNum).toNat < s.nctx ∧ (s.ctx 0).alloc = true ∧ RingOk (s.ctx 0) ∧
      (s.ctx 0).chunk.toNat ≤ (s.ctx 0).length.toNat ∧ s.xferBusy = false := by unfold RingOk; decide

theorem witness_ConsumptionReprogramsAndUploads :
    let s := streaming (voiceWith 0x200) []
    s.active = some 0 ∧ (0 : CtxNum).toNat < s.nctx ∧ (s.ctx 0).chunk.toNat ≤ (s.ctx 0).length.toNat ∧
      s.xferBusy = false := by decide

/-- V-S10, and the three other ways to it. -/
theorem witness_TransferOverlapStops :
    (let s := { streaming (voiceWith 0x200) [.dispatchCons] with xferBusy := true }
     (0 : CtxNum).toNat < s.nctx ∧ (s.ctx 0).chunk.toNat ≤ (s.ctx 0).length.toNat ∧ s.xferBusy = true ∧
       s.active = some 0 ∧ ConsEnabled s ∧ s.turns = [.dispatchCons]) ∧
    (let s := { ready (voiceWith 0x200) [] with xferBusy := true }
     s.xferBusy = true ∧ s.active = none ∧ RingReady s 0 ∧ (s.ctx 0).chunk.toNat ≤ (s.ctx 0).length.toNat) ∧
    (let s := { streaming (voiceWith 0x200) [.startPhase2] with xferBusy := true, primeWait := true }
     s.active = some 0 ∧ s.primeWait = true ∧ s.fatal = 0 ∧ (s.ctx 0).buffering = false ∧ s.xferBusy = true ∧
       s.turns = [.startPhase2] ∧ (s.ctx 0).chunk.toNat ≤ (s.ctx 0).length.toNat) := by
  unfold ConsEnabled XferEnabled RingReady Ready; decide

/-- V-S13: enabled with a run that ends normally, enabled with no stream, and not enabled. -/
theorem witness_DispatchConsRunsTheConsumptionLogic :
    (ConsEnabled (streaming (voiceWith 0x200) [.dispatchCons]) ∧
      ∃ t b, consumptionLogic { streaming (voiceWith 0x200) [.dispatchCons] with turns := [] } = .ran t b) ∧
    (ConsEnabled { streaming voice [.dispatchCons] with active := none }) ∧
    ¬ ConsEnabled { streaming voice [.dispatchCons] with vecCons := 0 } := by
  refine ⟨⟨by unfold ConsEnabled XferEnabled; decide, _, _, rfl⟩, ?_, ?_⟩ <;> unfold ConsEnabled XferEnabled <;> decide

/-- An underrun inside `START`. -/
theorem witness_OnlyCompletionOrUnderrunEnablesTheInterrupt :
    ∃ t, step (commanded (voiceWith 0x1FF) 0x1200000000000001) = .next t ∧
      (commanded (voiceWith 0x1FF) 0x1200000000000001).consEn = false ∧ t.consEn = true := ⟨_, rfl, rfl, rfl⟩

/-- Three turns of a run: two edges at once, which are two steps, and a command. -/
theorem witness_HandshakeHoldsUntilCompletion :
    let s := { ready voice [.edges 3, .host] with cmdPort := [0x1600000000000000] }
    s.consEn = false ∧ s.consPend = false ∧ (∀ u ∈ s.turns, u ≠ .dispatchXfer ∧ u ≠ .startPhase2 ∧ u ≠ .reset) ∧
      (∀ w ∈ s.cmdPort, ∀ c resume, decode (.command w) ≠ .ok (.start c resume)) ∧ ∃ t, runSteps 3 s = .next t := by
  refine ⟨rfl, rfl, by decide, ?_, ⟨_, rfl⟩⟩
  intro w hw c r h
  have : w = 0x1600000000000000 := by simpa using hw
  subst this
  have : decode (.command 0x1600000000000000) = .ok (.reflen 0) := by decide
  rw [this] at h; cases h

/-- A transfer of two bytes in flight, up to the end of the ring; the second byte has been written since. -/
def transferring : State :=
  { ready voice [] with
    xferBusy := true, xferDst := 0xFFFFFFFF, xferSrc := 0x7FE, xferLen := 2
    xferSnap := [(0x7FE, 0xD0), (0x7FF, 0xD1)], xferWrites := [(0x7FF, 0xEE)] }

theorem witness_XferDoneLandsTheTransfer :
    transferring.xferBusy = true ∧ 1 < transferring.xferLen.toNat ∧
    ∀ i < transferring.xferLen.toNat, (trunc32 (transferring.xferDst.toNat + i)).toNat ≠ 1 := by decide

theorem witness_PayloadIsTheByteOrOneWrittenSince :
    transferring.xferLost = false ∧
    transferring.xferSrc.toNat + 1 < (transferring.ctx transferring.xferCtx).capacity.toNat ∧
    transferring.xferSnap.read (transferring.xferSrc.toNat + 1) = some 0xD1 ∧
    transferring.xferSnap.read (transferring.xferSrc.toNat + 0) = some 0xD0 ∧
    (∀ p ∈ transferring.xferWrites, p.1 ≠ transferring.xferSrc.toNat + 0) ∧
    { transferring with xferLost := true }.xferLost = true ∧
    (transferring.ctx transferring.xferCtx).capacity.toNat ≤ transferring.xferSrc.toNat + 2 ∧
    { transferring with xferSnap := [] }.xferSnap.read (transferring.xferSrc.toNat + 0) = none := by decide

/-- A chunk that ends at the end of the ring. -/
theorem witness_UploadDeliversTheConsumedBytes :
    let s := streaming { voice with tail := 0x600, length := 0x200, buf := [(0x7FF, 0xC3)] } []
    s.active = some 0 ∧ (0 : CtxNum).toNat < s.nctx ∧ (s.ctx 0).chunk.toNat ≤ (s.ctx 0).length.toNat ∧
      (s.ctx 0).tail.toNat + (s.ctx 0).chunk.toNat ≤ (s.ctx 0).capacity.toNat ∧ s.xferBusy = false ∧
      (∃ t, consumptionLogic s = .ran t true) ∧ s.bufByte 0 ((s.ctx 0).tail.toNat + 0x1FF) = some 0xC3 :=
  ⟨rfl, by decide, by decide, by decide, rfl, ⟨_, rfl⟩, by decide⟩

theorem witness_DispatchXferCompletesTheHandshake :
    (let s := { streaming voice [.dispatchXfer] with xferPend := true }
     XferEnabled s ∧ s.active = some 0 ∧ (0 : CtxNum).toNat < s.nctx) ∧
    (let s := { ready voice [.dispatchXfer] with xferPend := true }
     XferEnabled s ∧ s.active = none) ∧
    ¬ XferEnabled (ready voice [.dispatchXfer]) := by unfold XferEnabled; decide

theorem witness_CompletionIsTakenFirst :
    let s := { streaming voice [.dispatchXfer] with xferPend := true }
    XferEnabled s ∧ s.consPend = true ∧ s.consEn = true ∧ s.vecCons = 1 ∧ s.turns = [.dispatchXfer] := by
  unfold XferEnabled; decide

theorem witness_OutputWordsAreAppendedToTheTrace : (Instr.cbUnderrun 1 0xCAFE0002).port = .output := rfl

theorem witness_TraceOnlyGrows :
    (∃ t, step (streaming (voiceWith 0x200) [.dispatchCons]) = .next t) ∧
    (streaming (voiceWith 0x200) [.dispatchCons]).nextTurn ≠ some .reset := ⟨⟨_, rfl⟩, by decide⟩

/-- The invariants hold of a playing block with a transfer due, and it has a next state. -/
theorem witness_invariants :
    let s := streaming (voiceWith 0x200) [.dispatchCons]
    RingInv s ∧ PhaseInv s ∧ RefillInv s ∧ MaskInv s ∧ CreatedInv s ∧ ArbiterInv s ∧ ActiveInv s ∧ MemoryInv s ∧
      TraceInv s ∧ ∃ t, step s = .next t := by
  refine ⟨?_, ?_, ?_, ?_, ?_, ?_, ⟨fun a h => ?_, fun h => ?_⟩, ?_, ⟨by decide, by decide, ?_, ?_⟩, ⟨_, rfl⟩⟩
  · unfold RingInv RingOk; decide
  · unfold PhaseInv PhaseOk; decide
  · unfold RefillInv RefillOk; decide
  · unfold MaskInv; decide
  · unfold CreatedInv CreatedOk; decide
  · unfold ArbiterInv; decide
  · cases h; decide
  · cases h
  · unfold MemoryInv BufOk; decide
  · intro dw h; cases h
  · intro dw h; rcases List.mem_cons.mp h with h | h <;> cases h

theorem witness_ResetLeavesTheResetTable :
    (ready voice [.reset]).turns = [.reset] ∧ ∃ s u, s = hardwareReset u ∧ u = streaming voice [] := ⟨rfl, _, _, rfl, rfl⟩

theorem witness_OnlyStartAndStopMoveTheActiveStream :
    (∃ t, step (commanded (voiceWith 0x200) 0x1200000000000000) = .next t ∧
      t.active ≠ (commanded (voiceWith 0x200) 0x1200000000000000).active) ∧
    (∃ t, step { commanded voice 0x1300000000000000 with active := some 0 } = .next t ∧ t.active ≠ some 0) ∧
    (commanded voice 0x1300000000000000).nextTurn ≠ some .reset :=
  ⟨⟨_, rfl, by decide⟩, ⟨_, rfl, by decide⟩, by decide⟩

theorem witness_CommandsTouchOnlyTheirContext :
    (Instr.start 0 true).namedCtx = some 0 ∧ ∃ t, exec (.start 0 true) (ready (voiceWith 0x200) []) = .next t :=
  ⟨rfl, _, rfl⟩

theorem witness_ParametersNeverChange : ∃ t, step (streaming voice [.reset]) = .next t := ⟨_, rfl⟩

end Sys2Proof.Machine
end

section
/-! The scope of the block (00_scope.md): one turn runs one decoded instruction, the active channels are the bits of the
mask, and the parameters stay. -/

namespace Sys2Proof.Machine

/-! ### What a turn of a port brings -/

/-- HOST's turn at an open port brings the instruction the oldest word decodes to, and the word is gone (R81). -/
theorem fetchCommand_of_decode {s : State} {w : CommandWord} {ws : List CommandWord} {i : Instr}
    (hopen : s.primeWait = false) (hport : s.cmdPort = w :: ws) (hdec : decode (.command w) = .ok i) :
    fetchCommand s = .run i { s with cmdPort := ws } := by
  unfold fetchCommand
  rw [if_neg (by simp [hopen])]
  split
  · next hnil => cases hport.symm.trans hnil
  · next w' ws' hcons =>
    cases hport.symm.trans hcons
    rw [hdec]

/-- HOST's turn at a closed port passes without effect (R42). -/
theorem fetchCommand_of_primeWait {s : State} (hclosed : s.primeWait = true) : fetchCommand s = .done (.next s) :=
  if_pos hclosed

/-- Only of two simultaneous edges is one left: `EV_XFER_DONE`'s (R93). -/
theorem edgesLeft_eq (irq : BitVec 2) : edgesLeft irq = if irq = 0b11 then 0b10 else 0 := by
  revert irq; decide

/-- Edges bring the event they begin with, and the second of two edges as the very next turn (R93). -/
theorem fetchEdges_of_decode {s : State} {irq : BitVec 2} {i : Instr} (hdec : decode (.edges irq) = .ok i) :
    fetchEdges irq s = .run i { s with turns := if irq = 0b11 then .edges 0b10 :: s.turns else s.turns } := by
  simp only [fetchEdges, hdec, edgesLeft_eq]
  by_cases hboth : irq = 0b11
  · subst hboth; rfl
  · rw [if_neg hboth, if_neg hboth]; rfl

/-- An output word on the port brings the instruction it decodes to (R95). -/
theorem fetchOutput_of_decode {s : State} {dw : OutputWord} {i : Instr} (hdec : decode (.output dw) = .ok i) :
    fetchOutput dw s = .run i s := by
  simp only [fetchOutput, hdec]

/-- Settles O7, port by port: `step` is the fetch of the turn, then `exec`. -/
theorem stepRunsTheDecodedInstruction : Obligations.StepRunsTheDecodedInstruction := by
  refine ⟨fun s rest w ws i hturn hopen hport hdec => ?_, fun s rest irq i hturn hdec => ?_,
    fun s rest dw i hturn hdec => ?_, fun s rest hturn hclosed => ?_⟩ <;>
    rw [step_of_turn s _ rest hturn, takeTurn]
  · rw [fetchCommand_of_decode (s := { s with turns := rest }) hopen hport hdec]
  · rw [fetchEdges_of_decode hdec]
  · rw [fetchOutput_of_decode hdec]
  · rw [fetchCommand_of_primeWait (s := { s with turns := rest }) hclosed]

/-! ### The active channels -/

/-- Numbers past every one counted add nothing to a count. -/
theorem countP_range_add_of_forall_lt (p : Nat → Bool) (m n : Nat) (h : ∀ i, p i = true → i < m) :
    (List.range (m + n)).countP p = (List.range m).countP p := by
  have none_past : ((List.range n).map (m + ·)).countP p = 0 := by
    simp only [List.countP_eq_zero, List.mem_map]
    rintro _ ⟨j, -, rfl⟩ hp
    exact absurd (h _ hp) (by omega)
  rw [List.range_add, List.countP_append, none_past, Nat.add_zero]

/-- Two ranges that both hold every number counted give the same count. -/
theorem countP_range_eq_of_forall_lt (p : Nat → Bool) (m n : Nat) (hm : ∀ i, p i = true → i < m)
    (hn : ∀ i, p i = true → i < n) : (List.range m).countP p = (List.range n).countP p := by
  calc (List.range m).countP p = (List.range (m + n)).countP p := (countP_range_add_of_forall_lt p m n hm).symm
    _ = (List.range (n + m)).countP p := by rw [Nat.add_comm]
    _ = (List.range n).countP p := countP_range_add_of_forall_lt p n m hn

/-- The bits `[31:NCH]` of a channel mask read as 0 (R27). -/
theorem lt_nch_of_chmaskOf {cfg : Config} {k : Context} {i : Nat} (h : (chmaskOf cfg k).getLsbD i = true) :
    i < cfg.nch := by
  simp only [chmaskOf, channelBits, trunc32, BitVec.getLsbD_and, BitVec.getLsbD_ofNat, Nat.testBit_two_pow_sub_one,
    Bool.and_eq_true, decide_eq_true_eq] at h
  exact h.2.2

theorem chansOf_pairwise_lt (cfg : Config) (k : Context) : (chansOf cfg k).Pairwise (· < ·) :=
  List.pairwise_lt_range.filter _

theorem mem_chansOf {cfg : Config} {k : Context} {i : Nat} :
    i ∈ chansOf cfg k ↔ i < cfg.nch ∧ (chmaskOf cfg k).getLsbD i = true := by
  rw [chansOf, List.mem_filter, List.mem_range]

theorem length_chansOf (cfg : Config) (k : Context) : (chansOf cfg k).length = popcount (chmaskOf cfg k) := by
  rw [chansOf, ← List.countP_eq_length_filter, popcount]
  exact countP_range_eq_of_forall_lt _ _ _ (fun _ => lt_nch_of_chmaskOf) (fun _ => BitVec.lt_of_getLsbD)

/-- Settles O22: a filter of a range is ascending and holds what passes; its length is the popcount since no bit of the
mask lies past `NCH` or past the word. -/
theorem activeChannelsAreTheMaskBits : Obligations.ActiveChannelsAreTheMaskBits :=
  fun cfg k => ⟨chansOf_pairwise_lt cfg k, fun _ => mem_chansOf, length_chansOf cfg k⟩

/-! ### The parameters stay -/

/-- The parameters of R7 are the same in both states. -/
def SameParameters (s t : State) : Prop := t.config = s.config ∧ t.nctx = s.nctx

/-- An outcome that, where it is a next state, has the parameters of `s`. -/
def KeepsParameters (s : State) (r : Result) : Prop := ∀ t, r = .next t → SameParameters s t

theorem SameParameters.refl (s : State) : SameParameters s s := ⟨rfl, rfl⟩

theorem SameParameters.trans {s t u : State} (hst : SameParameters s t) (htu : SameParameters t u) :
    SameParameters s u := ⟨htu.1.trans hst.1, htu.2.trans hst.2⟩

theorem sameParameters_setCtx (s : State) (c : CtxNum) (k : Context) : SameParameters s (s.setCtx c k) :=
  ⟨rfl, nctx_setCtx s c k⟩

theorem sameParameters_memWrite (s : State) (c : CtxNum) (off : Nat) (v : Byte) :
    SameParameters s (memWrite s c off v) := by
  obtain ⟨ws, e, -⟩ := memWrite_cases s c off v
  rw [e]; exact sameParameters_setCtx s c _

theorem sameParameters_memRead (s : State) (c : CtxNum) (off : Nat) : SameParameters s (memRead s c off).2 := by
  rcases memRead_cases s c off with ⟨v, -, e⟩ | ⟨-, e⟩ <;> rw [e] <;> exact .refl s

theorem sameParameters_createContext (s : State) (c : CtxNum) : SameParameters s (createContext s c) := by
  unfold createContext
  rw [loseSource_eq]
  exact sameParameters_setCtx s c _

theorem sameParameters_destroyContext (s : State) (c : CtxNum) : SameParameters s (destroyContext s c) := by
  unfold destroyContext
  rw [loseSource_eq]
  exact sameParameters_setCtx s c _

theorem sameParameters_completionHandler (s : State) : SameParameters s (completionHandler s) := by
  unfold completionHandler
  dsimp only
  split
  · exact ⟨rfl, rfl⟩
  · exact sameParameters_setCtx { s with xferPend := false, consEn := true } _ _

/-- The hardware reset resets every context and keeps their number (R51). -/
theorem sameParameters_hardwareReset (s : State) : SameParameters s (hardwareReset s) :=
  ⟨rfl, List.length_replicate⟩

theorem sameParameters_consumptionLogic {s t : State} {started : Bool} (h : consumptionLogic s = .ran t started) :
    SameParameters s t := by
  obtain ⟨hframe, hn⟩ := consumptionLogic_frame (.inl ⟨started, h⟩)
  exact ⟨by rw [hframe], hn⟩

theorem keepsParameters_next {s t : State} (h : SameParameters s t) : KeepsParameters s (.next t) := by
  rintro _ ⟨⟩; exact h

theorem keepsParameters_fault (s : State) (f : Fault) : KeepsParameters s (.fault f) := nofun

theorem KeepsParameters.after {s t : State} {r : Result} (hst : SameParameters s t) (h : KeepsParameters t r) :
    KeepsParameters s r := fun u e => hst.trans (h u e)

/-- A refused command writes the response only, so a checked command keeps what its own outcome keeps. -/
theorem keepsParameters_checked {s : State} {k : Checks} {run : Result} (h : KeepsParameters s run) :
    KeepsParameters s (checked s k run) := by
  intro t ht
  rcases checked_cases ht with ⟨st, v, e⟩ | ⟨e, -⟩
  · cases e; exact ⟨rfl, rfl⟩
  · exact h t e.symm

theorem keepsParameters_startTail (s : State) (c : CtxNum) : KeepsParameters s (startTail s c) := by
  unfold startTail
  split
  · exact keepsParameters_fault s _
  · next t _ hrun =>
    have emitted := sameParameters_consumptionLogic hrun
    exact keepsParameters_next emitted

theorem keepsParameters_startBody (s : State) (c : CtxNum) (resume : Bool) :
    KeepsParameters s (startBody c resume s) := by
  unfold startBody
  split
  · exact keepsParameters_next ⟨rfl, rfl⟩
  split
  · exact keepsParameters_startTail (bind s c) c
  split
  · exact keepsParameters_fault s _
  · next t hrun =>
    have primed := sameParameters_consumptionLogic hrun
    exact keepsParameters_next primed
  · next t hrun =>
    have primed := sameParameters_consumptionLogic hrun
    exact (keepsParameters_startTail t c).after primed

theorem keepsParameters_startPhase2 (s : State) : KeepsParameters s (startPhase2 s) := by
  unfold startPhase2
  split
  · next a _ => exact keepsParameters_startTail { s with primeWait := false } a
  · exact keepsParameters_next (.refl s)

theorem keepsParameters_dispatchXfer (s : State) : KeepsParameters s (dispatchXfer s) := by
  refine keepsParameters_next ?_
  split
  · exact sameParameters_completionHandler s
  · exact .refl s

theorem keepsParameters_dispatchCons (s : State) : KeepsParameters s (dispatchCons s) := by
  unfold dispatchCons
  split
  · split
    · next t _ hrun => exact keepsParameters_next (sameParameters_consumptionLogic hrun)
    · exact keepsParameters_fault s _
  · exact keepsParameters_next (.refl s)

theorem keepsParameters_execInit (s : State) (c : CtxNum) : KeepsParameters s (execInit c s) := by
  refine keepsParameters_checked ?_
  split
  · exact keepsParameters_next ⟨rfl, rfl⟩
  split
  · exact keepsParameters_next ⟨rfl, rfl⟩
  split
  · exact keepsParameters_next ⟨rfl, rfl⟩
  · exact keepsParameters_next (sameParameters_createContext s c)

/-- No instruction writes a parameter. -/
theorem keepsParameters_exec (i : Instr) (s : State) : KeepsParameters s (exec i s) := by
  cases i with
  | wrcfg c reg v => exact keepsParameters_checked (keepsParameters_next (sameParameters_setCtx s c _))
  | rdreg c reg =>
    unfold exec execRdreg
    dsimp only
    split <;> exact keepsParameters_checked (keepsParameters_next ⟨rfl, rfl⟩)
  | wrbuf c b o => exact keepsParameters_checked (keepsParameters_next (sameParameters_memWrite s c o.toNat b))
  | rdbuf c o => exact keepsParameters_checked (keepsParameters_next (sameParameters_memRead s c o.toNat))
  | init c => exact keepsParameters_execInit s c
  | destroy c => exact keepsParameters_checked (keepsParameters_next (sameParameters_destroyContext s c))
  | start c resume => exact keepsParameters_checked (keepsParameters_startBody s c resume)
  | stop =>
    refine keepsParameters_checked ?_
    split <;> exact keepsParameters_next ⟨rfl, rfl⟩
  | setrate c rate => exact keepsParameters_checked (keepsParameters_next (sameParameters_setCtx s c _))
  | feed c n => exact keepsParameters_checked (keepsParameters_next (sameParameters_setCtx s c _))
  | isactive | reflen | feedptr => exact keepsParameters_checked (keepsParameters_next ⟨rfl, rfl⟩)
  | evConsEdge | evXferDone =>
    refine keepsParameters_next ?_
    split <;> exact ⟨rfl, rfl⟩
  | setLoop | setIrqAddr | xferStart | keyOn | keyOff | setPitch | setEnv | setStart | cbRefill | cbUnderrun =>
    exact keepsParameters_next ⟨rfl, rfl⟩

/-- Settles O60, by the cases of a step; taking a turn or a word from its queue writes no parameter. -/
theorem parametersNeverChange : Obligations.ParametersNeverChange := by
  intro s t hstep
  rcases step_next_cases hstep with ⟨_, rfl, -⟩ | ⟨rfl, -⟩ | ⟨i, ts, ws, hrun, -⟩ | ⟨-, hrun⟩ | ⟨-, hrun⟩ | ⟨-, hrun⟩ |
    ⟨-, rfl⟩ | ⟨_, -, rfl⟩
  case inl | inr.inl => exact ⟨rfl, rfl⟩
  · exact keepsParameters_exec i { s with turns := ts, cmdPort := ws } t hrun
  · exact keepsParameters_dispatchXfer { s with turns := s.turns.tail } t hrun
  · exact keepsParameters_dispatchCons { s with turns := s.turns.tail } t hrun
  · exact keepsParameters_startPhase2 { s with turns := s.turns.tail } t hrun
  · exact sameParameters_hardwareReset { s with turns := s.turns.tail }
  · exact ⟨rfl, rfl⟩

end Sys2Proof.Machine
end

section
/-! The invariants of a single context (10_state.md R23, R25, R27, R35, R37). Each is kept by every single update of a
context; `kept_step` carries it over every step. -/

namespace Sys2Proof.Machine

/-! ### What the updates of a context write -/

/-- `WRCFG` writes a configuration register; the flags, the phase and the data registers stay (R161). -/
theorem writeCfg_frame (cfg : Config) (k : Context) (reg : BitVec 8) (v : Word) :
    (writeCfg cfg k reg v).alloc = k.alloc ∧ (writeCfg cfg k reg v).buffering = k.buffering ∧
      (writeCfg cfg k reg v).phase = k.phase := by
  unfold writeCfg
  split <;> exact ⟨rfl, rfl, rfl⟩

@[simp] theorem writeCfg_alloc (cfg : Config) (k : Context) (reg : BitVec 8) (v : Word) :
    (writeCfg cfg k reg v).alloc = k.alloc := (writeCfg_frame cfg k reg v).1

/-- A context that `WRCFG` may write is not initialised, and is not after (R160). -/
theorem writeCfg_alloc_ne_true {cfg : Config} {k : Context} {reg : BitVec 8} {v : Word} (hfree : k.alloc = false) :
    (writeCfg cfg k reg v).alloc ≠ true := by
  rw [writeCfg_alloc, hfree]
  exact Bool.false_ne_true

/-- `WRCFG` leaves the mask as it is or writes it without the absent channels (R27, R161). -/
theorem writeCfg_chmask (cfg : Config) (k : Context) (reg : BitVec 8) (v : Word) :
    (writeCfg cfg k reg v).chmask = k.chmask ∨ (writeCfg cfg k reg v).chmask = v &&& channelBits cfg := by
  unfold writeCfg
  split
  case h_1 => exact .inr rfl
  all_goals exact .inl rfl

theorem commit_head_toNat (k : Context) (n : Word) :
    (commit k n).head.toNat = (k.head.toNat + commitCount k n) % k.capacity.toNat % 2 ^ 32 := trunc32_toNat _

/-- While `LENGTH <= CAPACITY`, a commit counts without wrapping, since the clamp bounds it by the free space (R111). -/
theorem commit_length_toNat {k : Context} (n : Word) (h : k.length.toNat ≤ k.capacity.toNat) :
    (commit k n).length.toNat = k.length.toNat + commitCount k n := by
  have clamp := commitCount_le k n
  have bound := k.capacity.isLt
  exact (trunc32_toNat _).trans (Nat.mod_eq_of_lt (by omega))

theorem consume_tail_toNat (k : Context) :
    (consume k).tail.toNat = (k.tail.toNat + k.chunk.toNat) % k.capacity.toNat % 2 ^ 32 := trunc32_toNat _

theorem consume_length_toNat (k : Context) : (consume k).length.toNat = k.length.toNat - k.chunk.toNat := by
  have bound := k.length.isLt
  exact (trunc32_toNat _).trans (Nat.mod_eq_of_lt (by omega))

/-- A remainder by a register fits a register. -/
theorem mod_capacity_mod {k : Context} (v : Nat) (h : 0 < k.capacity.toNat) :
    v % k.capacity.toNat % 2 ^ 32 = v % k.capacity.toNat :=
  Nat.mod_eq_of_lt ((Nat.mod_lt v h).trans k.capacity.isLt)

/-! ### The ring -/

/-- `commit` moves `HEAD` and `LENGTH` by the same count. -/
theorem ringOk_commit {k : Context} (n : Word) (hk : RingOk k) : RingOk (commit k n) := by
  intro halloc
  obtain ⟨hlen, hhead, htail, hring⟩ := hk halloc
  have hcap : 0 < k.capacity.toNat := by omega
  have clamp := commitCount_le k n
  have head' := (commit_head_toNat k n).trans (mod_capacity_mod _ hcap)
  have length' := commit_length_toNat n hlen
  refine ⟨?_, ?_, htail, ?_⟩
  · rw [length']; change _ ≤ k.capacity.toNat; omega
  · rw [head']; exact Nat.mod_lt _ hcap
  · rw [head', length', ← hring]
    change (k.tail.toNat + (k.length.toNat + commitCount k n)) % k.capacity.toNat = _
    rw [Nat.mod_add_mod, Nat.add_assoc]

/-- Taking a chunk that is there moves `TAIL` up and `LENGTH` down by the same count. -/
theorem ringOk_uploaded {k : Context} (hk : RingOk k) (havail : k.chunk.toNat ≤ k.length.toNat) :
    RingOk (uploaded k) := by
  intro halloc
  obtain ⟨hlen, hhead, htail, hring⟩ := hk halloc
  have hcap : 0 < k.capacity.toNat := by omega
  have tail' : (uploaded k).tail.toNat = (k.tail.toNat + k.chunk.toNat) % k.capacity.toNat :=
    (consume_tail_toNat k).trans (mod_capacity_mod _ hcap)
  have length' : (uploaded k).length.toNat = k.length.toNat - k.chunk.toNat := consume_length_toNat k
  refine ⟨?_, hhead, ?_, ?_⟩
  · rw [length']; change _ ≤ k.capacity.toNat; omega
  · rw [tail']; exact Nat.mod_lt _ hcap
  · rw [tail', length']
    change _ % k.capacity.toNat = k.head.toNat
    rw [Nat.mod_add_mod, ← hring]
    congr 1; omega

/-- `INIT` empties a ring that has at least one byte of capacity (R163, R164). -/
theorem ringOk_initContext {s : State} {c : CtxNum} (hok : allocSucceeds s c = true) : RingOk (initContext s c) := by
  intro _
  have hcap : 1 ≤ (s.ctx c).capacity.toNat := by
    simp only [allocSucceeds, Bool.and_eq_true, decide_eq_true_eq] at hok
    exact hok.1.1
  exact ⟨Nat.zero_le _, hcap, hcap, Nat.zero_mod _⟩

theorem ringOk_kept (cfg : Config) : KeptByUpdates cfg RingOk where
  reset := nofun
  config _ _ _ _ hfree := fun halloc => absurd halloc (writeCfg_alloc_ne_true hfree)
  commit _ n hk _ := ringOk_commit n hk
  rate _ _ hk _ := hk
  byte _ _ _ hk _ _ := hk
  create _ _ _ _ _ _ _ hok := ringOk_initContext hok
  destroy _ _ _ := nofun
  idle _ hk _ := hk
  upload _ hk havail := ringOk_uploaded hk havail
  landed _ hk := hk

/-- Settles O51: every update of a context keeps the ring. -/
theorem ringInvariantIsKept : Obligations.RingInvariantIsKept :=
  fun _ _ hinv hstep => kept_step (ringOk_kept _) rfl hinv hstep

/-! ### The phase -/

/-- `PLAYING` is not `UPLOADING`, so a playing context that becomes `IDLE` had `BUFFERING = 0` already (R143). -/
theorem phaseOk_idle {k : Context} (hk : PhaseOk k) (hplaying : k.phase = .playing) :
    PhaseOk { k with phase := .idle } := by
  refine ⟨nofun, fun halloc => ⟨fun hbuf => ?_, nofun⟩⟩
  have huploading := (hk.2 halloc).mp hbuf
  rw [hplaying] at huploading
  cases huploading

/-- The completion clears `BUFFERING` and leaves `UPLOADING` (R151). -/
theorem phaseOk_chunkLanded {k : Context} (hk : PhaseOk k) : PhaseOk (chunkLanded k) := by
  by_cases hup : k.phase = .uploading
  · have played : (chunkLanded k).phase = .playing := if_pos hup
    exact ⟨by rw [played]; nofun, fun _ => ⟨nofun, by rw [played]; nofun⟩⟩
  · have same : (chunkLanded k).phase = k.phase := if_neg hup
    exact ⟨same ▸ hk.1, fun _ => ⟨nofun, fun h => absurd (same ▸ h) hup⟩⟩

theorem phaseOk_kept (cfg : Config) : KeptByUpdates cfg PhaseOk where
  reset := ⟨nofun, nofun⟩
  config k reg v hk _ := by
    obtain ⟨alloc', buffering', phase'⟩ := writeCfg_frame cfg k reg v
    unfold PhaseOk
    rw [alloc', buffering', phase']
    exact hk
  commit _ _ hk _ := hk
  rate _ _ hk _ := hk
  byte _ _ _ hk _ _ := hk
  create _ _ _ _ _ _ _ _ := ⟨nofun, fun _ => ⟨nofun, nofun⟩⟩
  destroy _ hk _ := ⟨hk.1, nofun⟩
  idle _ hk hplaying := phaseOk_idle hk hplaying
  upload _ _ _ := ⟨nofun, fun _ => ⟨fun _ => rfl, fun _ => rfl⟩⟩
  landed _ hk := phaseOk_chunkLanded hk

/-- Settles O52: every update of a context keeps the phase rule; inside one step `CHUNK_AVAIL` has become `UPLOADING`. -/
theorem phaseInvariantIsKept : Obligations.PhaseInvariantIsKept :=
  fun _ _ hinv hstep => kept_step (phaseOk_kept _) rfl hinv hstep

/-! ### The refill request -/

/-- A commit that passes the threshold clears `CBISSUED` (R111). -/
theorem refillOk_commit (k : Context) (n : Word) : RefillOk (commit k n) := by
  intro _ hissued
  have cleared : (commit k n).cbissued =
      if k.thresh.toNat < k.length.toNat + commitCount k n then false else k.cbissued := rfl
  have hle : ¬ k.thresh.toNat < k.length.toNat + commitCount k n := fun hpast => by
    rw [cleared, if_pos hpast] at hissued
    cases hissued
  calc (commit k n).length.toNat = (k.length.toNat + commitCount k n) % 2 ^ 32 := trunc32_toNat _
    _ ≤ k.length.toNat + commitCount k n := Nat.mod_le _ _
    _ ≤ k.thresh.toNat := Nat.le_of_not_lt hle

/-- Taking a chunk lowers `LENGTH`, and sets `CBISSUED` only at or below the threshold (R136). -/
theorem refillOk_uploaded {k : Context} (hk : RefillOk k) : RefillOk (uploaded k) := by
  intro halloc hissued
  have set_when : k.cbissued = true ∨ (consume k).length.toNat ≤ k.thresh.toNat := by
    simpa [uploaded] using hissued
  rcases set_when with hbefore | hnow
  · have hle := hk halloc hbefore
    calc (uploaded k).length.toNat = k.length.toNat - k.chunk.toNat := consume_length_toNat k
      _ ≤ k.length.toNat := Nat.sub_le _ _
      _ ≤ k.thresh.toNat := hle
  · exact hnow

theorem refillOk_kept (cfg : Config) : KeptByUpdates cfg RefillOk where
  reset := nofun
  config _ _ _ _ hfree := fun halloc => absurd halloc (writeCfg_alloc_ne_true hfree)
  commit k n _ _ := refillOk_commit k n
  rate _ _ hk _ := hk
  byte _ _ _ hk _ _ := hk
  create _ _ _ _ _ _ _ _ := nofun
  destroy _ _ _ := nofun
  idle _ hk _ := hk
  upload _ hk _ := refillOk_uploaded hk
  landed _ hk := hk

/-- Settles O53: every update of a context keeps the refill rule. -/
theorem refillInvariantIsKept : Obligations.RefillInvariantIsKept :=
  fun _ _ hinv hstep => kept_step (refillOk_kept _) rfl hinv hstep

/-! ### The configuration -/

/-- The mask of a context names existing channels only (R27). -/
def MaskOk (cfg : Config) (k : Context) : Prop := k.chmask = chmaskOf cfg k

/-- A mask written is the one that reads: the absent bits are cut once, and cutting them again changes nothing. -/
theorem maskOk_writeCfg {cfg : Config} {k : Context} (reg : BitVec 8) (v : Word) (hk : MaskOk cfg k) :
    MaskOk cfg (writeCfg cfg k reg v) := by
  unfold MaskOk chmaskOf
  rcases writeCfg_chmask cfg k reg v with same | written
  · rw [same]; exact hk
  · rw [written, BitVec.and_assoc, BitVec.and_self]

theorem maskOk_kept (cfg : Config) : KeptByUpdates cfg (MaskOk cfg) where
  reset := by simp [MaskOk, chmaskOf, Context.reset]
  config _ reg v hk _ := maskOk_writeCfg reg v hk
  commit _ _ hk _ := hk
  rate _ _ hk _ := hk
  byte _ _ _ hk _ _ := hk
  create _ _ _ hk _ _ _ _ := hk
  destroy _ hk _ := hk
  idle _ hk _ := hk
  upload _ hk _ := hk
  landed _ hk := hk

/-- `INIT` creates a context only past its checks: a channel, a product that fits, a capacity (R163, R164). -/
theorem createdOk_initContext {s : State} {c : CtxNum} (hchan : popcount (chmaskOf s.config (s.ctx c)) ≠ 0)
    (hfits : chunkProduct s c < 2 ^ 32) (hok : allocSucceeds s c = true) : CreatedOk s.config (initContext s c) := by
  intro _
  simp only [allocSucceeds, Bool.and_eq_true, decide_eq_true_eq] at hok
  obtain ⟨⟨hmin, hmax⟩, -⟩ := hok
  have chunk' : (initContext s c).chunk.toNat = chunkProduct s c :=
    (trunc32_toNat _).trans (Nat.mod_eq_of_lt hfits)
  exact ⟨Nat.pos_of_ne_zero hchan, chunk', hmin, hmax⟩

theorem createdOk_kept (cfg : Config) : KeptByUpdates cfg (CreatedOk cfg) where
  reset := nofun
  config _ _ _ _ hfree := fun halloc => absurd halloc (writeCfg_alloc_ne_true hfree)
  commit _ _ hk _ := hk
  rate _ _ hk _ := hk
  byte _ _ _ hk _ _ := hk
  create _ _ hcfg _ _ hchan hfits hok := hcfg ▸ createdOk_initContext hchan hfits hok
  destroy _ _ _ := nofun
  idle _ hk _ := hk
  upload _ hk _ := hk
  landed _ hk := hk

/-- Settles O54: every update of a context keeps both, under the parameters of R7, which no step writes. -/
theorem configurationInvariantIsKept : Obligations.ConfigurationInvariantIsKept := by
  intro s t hmask hcreated hstep
  have hcfg : t.config = s.config := (parametersNeverChange s t hstep).1
  unfold MaskInv CreatedInv
  rw [hcfg]
  exact ⟨kept_step (maskOk_kept s.config) rfl hmask hstep, kept_step (createdOk_kept s.config) rfl hcreated hstep⟩

end Sys2Proof.Machine
end

section
/-! What a transition leaves as it was: the words already emitted, every context but one, and the active stream. Said once
for every step (`step_acts`), with the binding of a stream by `START` and its release by `STOP` as the two exceptions. -/

namespace Sys2Proof.Machine

/-! ### Acting on one context -/

/-- What the block keeps where it acts on the context `o` names, or on none: the output words already emitted, the active
stream, which stays initialised, and the registers of every other context; and it suspends no `START` without a stream. -/
structure ActsOn (o : Option CtxNum) (s t : State) : Prop where
  trace : ∃ ws, t.trace = s.trace ++ ws
  active : t.active = s.active
  suspended : t.primeWait = true → s.primeWait = true ∨ t.active.isSome = true
  others : ∀ d, o ≠ some d → t.ctx d = s.ctx d
  alloc : ∀ d, t.active = some d → (s.ctx d).alloc = true → (t.ctx d).alloc = true

namespace ActsOn

theorem refl (o : Option CtxNum) (s : State) : ActsOn o s s :=
  ⟨⟨[], (List.append_nil _).symm⟩, rfl, .inl, fun _ _ => rfl, fun _ _ => id⟩

theorem trans {o : Option CtxNum} {s t u : State} (hst : ActsOn o s t) (htu : ActsOn o t u) : ActsOn o s u where
  trace := by
    obtain ⟨ws, hws⟩ := hst.trace
    obtain ⟨vs, hvs⟩ := htu.trace
    exact ⟨ws ++ vs, by rw [hvs, hws, List.append_assoc]⟩
  active := htu.active.trans hst.active
  suspended hsusp := by
    rcases htu.suspended hsusp with hold | hstream
    · exact (hst.suspended hold).imp_right (htu.active ▸ ·)
    · exact .inr hstream
  others d hd := (htu.others d hd).trans (hst.others d hd)
  alloc d hact halloc := htu.alloc d hact (hst.alloc d (htu.active ▸ hact) halloc)

/-- Only five fields are spoken of: two states that agree in them may stand for each other. -/
theorem congr {o : Option CtxNum} {s s' t t' : State} (h : ActsOn o s t)
    (hs : (s'.trace, s'.active, s'.primeWait, s'.ctxs) = (s.trace, s.active, s.primeWait, s.ctxs))
    (ht : (t'.trace, t'.active, t'.primeWait, t'.ctxs) = (t.trace, t.active, t.primeWait, t.ctxs)) :
    ActsOn o s' t' := by
  simp only [Prod.mk.injEq] at hs ht
  obtain ⟨strace, sactive, sprime, sctxs⟩ := hs
  obtain ⟨ttrace, tactive, tprime, tctxs⟩ := ht
  obtain ⟨trace, active, suspended, others, alloc⟩ := h
  constructor
  case trace => rw [ttrace, strace]; exact trace
  case active => rw [tactive, sactive]; exact active
  case suspended => rw [tprime, sprime, tactive]; exact suspended
  case others => simp only [ctx_of_ctxs tctxs, ctx_of_ctxs sctxs]; exact others
  case alloc => simp only [ctx_of_ctxs tctxs, ctx_of_ctxs sctxs, tactive]; exact alloc

end ActsOn

section Operations
variable (s : State) (o : Option CtxNum) (c : CtxNum)

theorem actsOn_respond (st : Status) (a b : Word) : ActsOn o s (s.respond st a b) := (ActsOn.refl o s).congr rfl rfl

theorem actsOn_emitAll (ws : List OutputWord) : ActsOn o s (s.emitAll ws) :=
  ⟨⟨ws, rfl⟩, rfl, .inl, fun _ _ => rfl, fun _ _ => id⟩

/-- The registers named by any number after a context is replaced: the new ones at that number, if it names a context. -/
theorem ctx_setCtx_cases (k : Context) (d : CtxNum) :
    (d = c ∧ (s.setCtx c k).ctx d = k) ∨ (s.setCtx c k).ctx d = s.ctx d := by
  by_cases hd : d = c
  · by_cases hc : c.toNat < s.nctx
    · exact .inl ⟨hd, hd ▸ ctx_setCtx_same s c k hc⟩
    · exact .inr (ctx_of_ctxs (List.set_eq_of_length_le (Nat.le_of_not_lt hc)) d)
  · exact .inr (ctx_setCtx_other s c d k hd)

/-- Replacing the registers of `c` acts on `c`, where it does not end an active stream. -/
theorem actsOn_setCtx (k : Context) (hk : s.active = some c → (s.ctx c).alloc = true → k.alloc = true) :
    ActsOn (some c) s (s.setCtx c k) where
  trace := (ActsOn.refl none s).trace
  active := rfl
  suspended := .inl
  others d hd := ctx_setCtx_other s c d k fun e => hd (e ▸ rfl)
  alloc d hact halloc := by
    rcases ctx_setCtx_cases s c k d with ⟨rfl, e⟩ | e <;> rw [e]
    · exact hk hact halloc
    · exact halloc

/-! ### The consumption logic and the completion handler -/

theorem actsOn_enterIdle : ActsOn (some c) s (enterIdle s c) := by
  rcases enterIdle_cases s c with e | ⟨-, e⟩ <;> rw [e]
  · exact .refl _ s
  · exact actsOn_setCtx s c _ fun _ => id

theorem actsOn_underrunBranch : ActsOn o s (underrunBranch s c) := by
  unfold underrunBranch
  dsimp only
  split
  · exact (ActsOn.refl o s).congr rfl rfl
  · exact (actsOn_emitAll s o _).congr rfl rfl

theorem actsOn_takeChunk : ActsOn (some c) s (takeChunk s c) := actsOn_setCtx s c _ fun _ => id

theorem actsOn_requestRefill : ActsOn (some c) s (requestRefill s c) := by
  unfold requestRefill
  split
  · dsimp only
    split
    · exact actsOn_setCtx s c _ fun _ => id
    · exact (actsOn_emitAll s (some c) _).trans (actsOn_setCtx (s.emit _) c _ fun _ => id)
  · exact .refl _ s

theorem actsOn_startUpload (src : Word) : ActsOn (some c) s (startUpload s c src) :=
  have worded := actsOn_emitAll s (some c) [xferStartWord c (halfAddr (s.ctx c) (s.ctx c).dbidx) src (s.ctx c).chunk]
  have marked := actsOn_setCtx (s.emitAll _) c { s.ctx c with phase := .uploading } fun _ => id
  (worded.trans marked).congr rfl rfl

theorem actsOn_uploadChunk : ActsOn (some c) s (uploadChunk s c) :=
  (actsOn_takeChunk s c).trans <| (actsOn_requestRefill _ c).trans <|
    (actsOn_emitAll _ (some c) _).trans (actsOn_startUpload _ c _)

end Operations

/-- A run of the consumption logic acts on the active stream, and on no context where there is none (R131). -/
theorem actsOn_consumptionLogic {s t : State} {started : Bool} (h : consumptionLogic s = .ran t started) :
    ActsOn s.active s t := by
  have acknowledged : ∀ o, ActsOn o s (acknowledge s) := fun o => (ActsOn.refl o s).congr rfl rfl
  rcases consumptionLogic_cases s with ⟨-, e⟩ | ⟨a, u, hact, hu, hrun⟩
  · rw [e] at h; cases h
    exact acknowledged _
  · rw [hact]
    have entered : ActsOn (some a) s u := hu ▸ (acknowledged _).trans (actsOn_enterIdle (acknowledge s) a)
    rcases hrun with ⟨-, e⟩ | ⟨-, -, e⟩ | ⟨-, -, e⟩ <;> rw [e] at h <;> cases h
    · exact entered.trans (actsOn_underrunBranch u _ a)
    · exact entered.trans (actsOn_uploadChunk u a)

theorem actsOn_dispatchCons {s t : State} (h : dispatchCons s = .next t) : ActsOn s.active s t := by
  unfold dispatchCons at h
  split at h
  · split at h <;> cases h
    exact actsOn_consumptionLogic ‹_›
  · cases h; exact .refl _ s

/-- The completion handler acts on the active stream (R151, R153). -/
theorem actsOn_completionHandler (s : State) : ActsOn s.active s (completionHandler s) := by
  unfold completionHandler
  dsimp only
  split
  · exact (ActsOn.refl _ s).congr rfl rfl
  · next a hact =>
    have landed := actsOn_setCtx s a (chunkLanded (s.ctx a)) fun _ => id
    exact (congrArg (ActsOn · s _) hact).mpr (landed.congr rfl rfl)

theorem actsOn_dispatchXfer {s t : State} (h : dispatchXfer s = .next t) : ActsOn s.active s t := by
  unfold dispatchXfer at h
  split at h <;> cases h
  · exact actsOn_completionHandler s
  · exact .refl _ s

/-- `StartTail` acts on the stream that is active by then (R168). -/
theorem actsOn_startTail {s t : State} {c : CtxNum} (h : startTail s c = .next t) : ActsOn s.active s t := by
  unfold startTail at h
  split at h <;> cases h
  next u _ hrun =>
  have worded := actsOn_emitAll s s.active (startWords s c)
  have ran : ActsOn s.active (s.emitAll (startWords s c)) u := actsOn_consumptionLogic hrun
  exact (worded.trans ran).trans <|
    (actsOn_emitAll u _ [keyOnWord (chmaskOf u.config (u.ctx c))]).trans (actsOn_respond _ _ _ _ _)

theorem actsOn_startPhase2 {s t : State} (h : startPhase2 s = .next t) : ActsOn s.active s t := by
  unfold startPhase2 at h
  split at h
  · next a _ =>
    have reopened : ActsOn s.active s { s with primeWait := false } :=
      ⟨⟨[], (List.append_nil _).symm⟩, rfl, nofun, fun _ _ => rfl, fun _ _ => id⟩
    exact reopened.trans (actsOn_startTail (s := { s with primeWait := false }) h)
  · cases h; exact .refl _ s

/-! ### The commands -/

/-- A checked command acts on `o` where its own outcome does, since a refusal answers only. -/
theorem actsOn_checked {o : Option CtxNum} {s t : State} {k : Checks} {run : Result} (h : checked s k run = .next t)
    (hrun : run = .next t → k.stateOk = true → ActsOn o s t) : ActsOn o s t := by
  rcases checked_cases h with ⟨st, v, e⟩ | ⟨e, -, -, -, hstate, -⟩
  · cases e; exact actsOn_respond s o st v 0
  · exact hrun e.symm hstate

theorem actsOn_memWrite (s : State) (c : CtxNum) (off : Nat) (v : Byte) : ActsOn (some c) s (memWrite s c off v) := by
  obtain ⟨ws, e, -⟩ := memWrite_cases s c off v
  rw [e]
  exact (actsOn_setCtx s c { s.ctx c with buf := (s.ctx c).buf.write off v } fun _ => id).congr rfl rfl

theorem actsOn_memRead (s : State) (o : Option CtxNum) (c : CtxNum) (off : Nat) : ActsOn o s (memRead s c off).2 := by
  rcases memRead_cases s c off with ⟨v, -, e⟩ | ⟨-, e⟩ <;> rw [e] <;> exact (ActsOn.refl o s).congr rfl rfl

theorem actsOn_createContext (s : State) (c : CtxNum) : ActsOn (some c) s (createContext s c) := by
  unfold createContext
  rw [loseSource_eq]
  exact (actsOn_setCtx s c (initContext s c) fun _ _ => rfl).congr rfl rfl

/-- `DESTROY` of a context that is not the active one ends no active stream (R160, R165). -/
theorem actsOn_destroyContext {s : State} {c : CtxNum} (hidle : s.active ≠ some c) :
    ActsOn (some c) s (destroyContext s c) := by
  unfold destroyContext
  rw [loseSource_eq]
  exact (actsOn_setCtx s c { s.ctx c with alloc := false, buf := [] } fun h => absurd h hidle).congr rfl rfl

theorem actsOn_execInit {s t : State} {c : CtxNum} (h : execInit c s = .next t) : ActsOn (some c) s t := by
  refine actsOn_checked h fun hrun _ => ?_
  split at hrun
  · cases hrun; exact (ActsOn.refl _ s).congr rfl rfl
  split at hrun
  · cases hrun; exact actsOn_respond s _ _ _ _
  split at hrun
  · cases hrun; exact (ActsOn.refl _ s).congr rfl rfl
  · cases hrun; exact actsOn_createContext s c

/-- `START` past its checks: it finds a stream active and answers, or binds its own context and acts on it (R166). -/
theorem startBody_cases {s t : State} {c : CtxNum} {resume : Bool} (h : startBody c resume s = .next t) :
    ActsOn (some c) s t ∨ (s.active = none ∧ ActsOn (some c) (bind s c) t) := by
  unfold startBody at h
  split at h
  · cases h; exact .inl (actsOn_respond s _ _ _ _)
  next hnone =>
  refine .inr ⟨by simpa using hnone, ?_⟩
  split at h
  · exact actsOn_startTail h
  split at h
  · cases h
  · next u hprime =>
    cases h
    have primed : ActsOn (some c) (bind s c) u := actsOn_consumptionLogic hprime
    exact ⟨primed.trace, primed.active, fun _ => .inr (by rw [primed.active]; rfl), primed.others, primed.alloc⟩
  · next u hprime =>
    have primed : ActsOn (some c) (bind s c) u := actsOn_consumptionLogic hprime
    have started : ActsOn u.active u t := actsOn_startTail h
    rw [primed.active] at started
    exact primed.trans started

/-- All an instruction that completes can do: act on the context it names; or be a `START` that binds that context first;
or be a `STOP` that releases the stream first. -/
theorem exec_acts {i : Instr} {s t : State} (h : exec i s = .next t) :
    ActsOn i.namedCtx s t ∨
    (∃ c resume, i = .start c resume ∧ s.active = none ∧ c.toNat < s.nctx ∧ (s.ctx c).alloc = true ∧
      ActsOn (some c) (bind s c) t) ∨
    (i = .stop ∧ ActsOn none { s with active := none } t) := by
  cases i with
  | start c resume =>
    rcases checked_cases h with ⟨st, v, e⟩ | ⟨e, -, hctx, -, halloc, -⟩
    · cases e; exact .inl (actsOn_respond s _ st v 0)
    · rcases startBody_cases e.symm with refused | ⟨hnone, started⟩
      · exact .inl refused
      · exact .inr (.inl ⟨c, resume, rfl, hnone, by simpa [State.hasCtx] using hctx, halloc, started⟩)
  | stop =>
    rcases checked_cases h with ⟨st, v, e⟩ | ⟨e, -⟩
    · cases e; exact .inl (actsOn_respond s _ st v 0)
    · split at e <;> cases e
      · exact .inl (actsOn_respond s _ _ _ _)
      · next a _ =>
        exact .inr (.inr ⟨rfl, (actsOn_emitAll { s with active := none } _ (stopWords s a)).congr rfl rfl⟩)
  | wrcfg c reg v =>
    refine .inl (actsOn_checked h fun hrun _ => ?_)
    cases hrun
    have written := actsOn_setCtx s c (writeCfg s.config (s.ctx c) reg v) fun _ ha => (writeCfg_alloc ..).trans ha
    exact written.congr rfl rfl
  | rdreg c reg =>
    simp only [exec, execRdreg] at h
    split at h
    · exact .inl (actsOn_checked h fun hrun _ => by cases hrun; exact .refl _ s)
    · exact .inl (actsOn_checked h fun hrun _ => by cases hrun; exact actsOn_respond s _ _ _ _)
  | wrbuf c b off =>
    refine .inl (actsOn_checked h fun hrun _ => ?_)
    cases hrun
    exact (actsOn_memWrite s c off.toNat b).congr rfl rfl
  | rdbuf c off =>
    refine .inl (actsOn_checked h fun hrun _ => ?_)
    cases hrun
    exact (actsOn_memRead s _ c off.toNat).congr rfl rfl
  | init c => exact .inl (actsOn_execInit h)
  | destroy c =>
    refine .inl (actsOn_checked h fun hrun hstate => ?_)
    cases hrun
    simp only [Bool.and_eq_true, bne_iff_ne] at hstate
    exact actsOn_destroyContext hstate.2
  | setrate c rate =>
    refine .inl (actsOn_checked h fun hrun _ => ?_)
    cases hrun
    have rated := actsOn_setCtx s c { s.ctx c with rate := rate } fun _ => id
    exact (rated.trans (actsOn_emitAll _ _ _)).trans (actsOn_respond _ _ _ _ _)
  | feed c n =>
    refine .inl (actsOn_checked h fun hrun _ => ?_)
    cases hrun
    exact (actsOn_setCtx s c (commit (s.ctx c) n) fun _ => id).congr rfl rfl
  | isactive | reflen | feedptr =>
    exact .inl (actsOn_checked h fun hrun _ => by cases hrun; exact actsOn_respond s _ _ _ _)
  | evConsEdge | evXferDone =>
    cases h
    left
    split <;> exact (ActsOn.refl _ s).congr rfl rfl
  | setLoop | setIrqAddr | xferStart | keyOn | keyOff | setPitch | setEnv | setStart | cbRefill | cbUnderrun =>
    cases h
    exact .inl (actsOn_emitAll s _ _)

/-- Settles O59: binding a stream changes no register of a context, and a command that releases one names none. -/
theorem commandsTouchOnlyTheirContext : Obligations.CommandsTouchOnlyTheirContext := by
  intro i s t c hnamed hexec d hd
  have hother : some c ≠ some d := fun e => hd (Option.some.inj e).symm
  rcases exec_acts hexec with acts | ⟨c', _, rfl, -, -, -, acts⟩ | ⟨rfl, -⟩
  · exact acts.others d (hnamed ▸ hother)
  · cases hnamed
    exact acts.others d hother
  · cases hnamed

/-! ### The steps -/

/-- All a step that answers a next state can do: act on one context or none; accept a `START` that binds its context
first; accept a `STOP` that releases the stream first; or be the reset. -/
theorem step_acts {s t : State} (h : step s = .next t) :
    (∃ o, ActsOn o s t) ∨
    (∃ c resume, Accepts s (.start c resume) ∧ s.active = none ∧ c.toNat < s.nctx ∧ (s.ctx c).alloc = true ∧
      ActsOn (some c) (bind s c) t) ∨
    (Accepts s .stop ∧ ActsOn none { s with active := none } t) ∨
    (s.nextTurn = some .reset ∧ t = hardwareReset { s with turns := s.turns.tail }) := by
  rcases step_next_cases h with ⟨ts, rfl, -⟩ | ⟨rfl, -⟩ | ⟨i, ts, ws, hexec, -, -, hport⟩ | ⟨-, hrun⟩ | ⟨-, hrun⟩ |
    ⟨-, hrun⟩ | hreset | ⟨ok, -, rfl⟩
  · exact .inl ⟨none, (ActsOn.refl none s).congr rfl rfl⟩
  · exact .inl ⟨none, (ActsOn.refl none s).congr rfl rfl⟩
  · have accepted : i.port = .command → Accepts s i := by
      intro hcommand
      rcases hport with ⟨hacc, -⟩ | ⟨hevent, -⟩ | ⟨houtput, -⟩
      · exact hacc
      · cases hcommand.symm.trans hevent
      · cases hcommand.symm.trans houtput
    rcases exec_acts hexec with acts | ⟨c, resume, rfl, hnone, hctx, halloc, acts⟩ | ⟨rfl, acts⟩
    · exact .inl ⟨_, acts.congr rfl rfl⟩
    · exact .inr (.inl ⟨c, resume, accepted rfl, hnone, hctx, halloc, acts.congr rfl rfl⟩)
    · exact .inr (.inr (.inl ⟨accepted rfl, acts.congr rfl rfl⟩))
  · exact .inl ⟨_, (actsOn_dispatchXfer hrun).congr rfl rfl⟩
  · exact .inl ⟨_, (actsOn_dispatchCons hrun).congr rfl rfl⟩
  · exact .inl ⟨_, (actsOn_startPhase2 hrun).congr rfl rfl⟩
  · exact .inr (.inr (.inr hreset))
  · exact .inl ⟨none, (ActsOn.refl none s).congr rfl rfl⟩

/-- Settles O47: acting on a context only appends, and neither binding nor releasing a stream touches the trace. -/
theorem traceOnlyGrows : Obligations.TraceOnlyGrows := by
  intro s t hstep hreset
  rcases step_acts hstep with ⟨_, acts⟩ | ⟨_, _, -, -, -, -, acts⟩ | ⟨-, acts⟩ | ⟨hturn, -⟩
  · exact acts.trace
  · exact acts.trace
  · exact acts.trace
  · exact absurd hturn hreset

/-- Settles O58: acting on a context keeps the active stream. -/
theorem onlyStartAndStopMoveTheActiveStream : Obligations.OnlyStartAndStopMoveTheActiveStream := by
  intro s t hstep hmoved hreset
  rcases step_acts hstep with ⟨_, acts⟩ | ⟨c, resume, hacc, hnone, -, -, acts⟩ | ⟨hacc, acts⟩ | ⟨hturn, -⟩
  · exact absurd acts.active hmoved
  · exact .inl ⟨c, resume, hacc, hnone, acts.active⟩
  · exact .inr ⟨hacc, acts.active⟩
  · exact absurd hturn hreset

/-! ### The active stream -/

theorem ActsOn.activeInv {o : Option CtxNum} {s t : State} (acts : ActsOn o s t) (hn : t.nctx = s.nctx)
    (hs : ActiveInv s) : ActiveInv t := by
  obtain ⟨hstream, hprime⟩ := hs
  refine ⟨fun a hact => ?_, fun hsusp => ?_⟩
  · obtain ⟨hctx, halloc⟩ := hstream a (acts.active ▸ hact)
    exact ⟨hn ▸ hctx, acts.alloc a hact halloc⟩
  · rcases acts.suspended hsusp with hold | hsome
    · rw [acts.active]; exact hprime hold
    · exact hsome

/-- Binding an initialised context (R166). -/
theorem activeInv_bind {s : State} {c : CtxNum} (hctx : c.toNat < s.nctx) (halloc : (s.ctx c).alloc = true) :
    ActiveInv (bind s c) := by
  refine ⟨fun a hact => ?_, fun _ => rfl⟩
  cases hact
  exact ⟨hctx, halloc⟩

/-- Releasing the stream while no `START` is suspended, as at an open command port (R42). -/
theorem activeInv_release {s : State} (hopen : s.primeWait = false) : ActiveInv { s with active := none } :=
  ⟨nofun, fun hsusp => absurd (hopen.symm.trans hsusp) Bool.false_ne_true⟩

/-- The reset leaves no stream and nothing suspended (R51). -/
theorem activeInv_hardwareReset (s : State) : ActiveInv (hardwareReset s) := ⟨nofun, nofun⟩

/-- Settles O56: binding and releasing a stream establish the rule, and acting on a context keeps it. -/
theorem activeInvariantIsKept : Obligations.ActiveInvariantIsKept := by
  intro s t hinv hstep
  have hn : t.nctx = s.nctx := (parametersNeverChange s t hstep).2
  rcases step_acts hstep with ⟨_, acts⟩ | ⟨c, _, -, -, hctx, halloc, acts⟩ | ⟨⟨-, hopen, -⟩, acts⟩ | ⟨-, rfl⟩
  · exact acts.activeInv hn hinv
  · exact acts.activeInv hn (activeInv_bind hctx halloc)
  · exact acts.activeInv hn (activeInv_release hopen)
  · exact activeInv_hardwareReset _

end Sys2Proof.Machine
end

section
/-! The reset state and the registers' layout (10_state.md R25, R36, R39, R41, R51), the words of the output port (R95,
R96), and the bytes of a transfer (20_memory.md R78, R79). -/

namespace Sys2Proof.Machine

/-! ### A byte of a transfer -/

/-- The byte picked is the old one or one of those written since (R78). -/
theorem pickByte_mem (v : Byte) (ws : List Byte) (k : Nat) : pickByte v ws k = v ∨ pickByte v ws k ∈ ws := by
  cases ws with
  | nil => exact .inl rfl
  | cons w ws =>
    have hlt : Config.freePick k % ((w :: ws).length + 1) < (v :: w :: ws).length := Nat.mod_lt _ (Nat.succ_pos _)
    have picked : pickByte v (w :: ws) k = (v :: w :: ws)[Config.freePick k % ((w :: ws).length + 1)] :=
      List.getD_eq_getElem _ _ hlt
    exact List.mem_cons.mp (picked ▸ List.getElem_mem hlt)

/-- The bytes written to an offset are those of the writes at that offset. -/
theorem mem_writesTo {s : State} {o : Nat} {b : Byte} : b ∈ writesTo s o ↔ (o, b) ∈ s.xferWrites := by
  simp [writesTo]

theorem writesTo_eq_nil {s : State} {o : Nat} (h : ∀ p ∈ s.xferWrites, p.1 ≠ o) : writesTo s o = [] := by
  simpa [writesTo] using h

/-- Inside the ring, with the source kept and a byte there at the start, the payload is picked (R78). -/
theorem payload_of_snap {s : State} {i : Nat} {v : Byte} (hkept : s.xferLost = false)
    (hin : s.xferSrc.toNat + i < (s.ctx s.xferCtx).capacity.toNat)
    (hsnap : s.xferSnap.read (s.xferSrc.toNat + i) = some v) :
    payload s i = pickByte v (writesTo s (s.xferSrc.toNat + i)) (s.freeCount + i) := by
  simp [payload, hkept, hin, hsnap]

/-- Elsewhere it is a free byte (R52, R78, R79). -/
theorem payload_of_open {s : State} {i : Nat}
    (hopen : s.xferLost = true ∨ (s.ctx s.xferCtx).capacity.toNat ≤ s.xferSrc.toNat + i ∨
      s.xferSnap.read (s.xferSrc.toNat + i) = none) : payload s i = Config.freeByte (s.freeCount + i) := by
  rcases hopen with hlost | hpast | hnone
  · simp [payload, hlost]
  · simp [payload, hpast]
  · simp [payload, hnone]

/-- Settles O41, by what the pick can be. -/
theorem payloadIsTheByteOrOneWrittenSince : Obligations.PayloadIsTheByteOrOneWrittenSince := by
  refine fun s i => ⟨fun v hkept hin hsnap => ?_, payload_of_open⟩
  rw [payload_of_snap hkept hin hsnap]
  refine ⟨(pickByte_mem v _ _).imp_right mem_writesTo.mp, fun hunwritten => ?_⟩
  rw [writesTo_eq_nil hunwritten]
  rfl

/-! ### The packed registers -/

/-- Five flags packed into the low bits of a register: each bit, the two upper ones as a field, and the rest 0. -/
theorem packed_bits : ∀ b0 b1 b2 b3 b4 : Bool,
    let w := trunc32 (bit b0 + 2 * bit b1 + 4 * bit b2 + 8 * bit b3 + 16 * bit b4)
    w.getLsbD 0 = b0 ∧ w.getLsbD 1 = b1 ∧ w.getLsbD 2 = b2 ∧ w.getLsbD 3 = b3 ∧ w.getLsbD 4 = b4 ∧
      w.extractLsb' 3 2 = BitVec.ofNat 2 (bit b3 + 2 * bit b4) ∧ w.extractLsb' 5 27 = 0 := by
  decide

/-- The two bits of a phase code: the lower is that of `CHUNK_AVAIL` and `PLAYING`, the upper that of `UPLOADING` and
`PLAYING` (R25). -/
theorem phaseCode_eq_bits (p : Phase) :
    phaseCode p = bit (p == .chunkAvail || p == .playing) + 2 * bit (p == .uploading || p == .playing) := by
  cases p <;> rfl

theorem flagsWord_eq_packed (k : Context) :
    flagsWord k = trunc32 (bit k.alloc + 2 * bit k.buffering + 4 * bit k.cbissued +
      8 * bit (k.phase == .chunkAvail || k.phase == .playing) +
      16 * bit (k.phase == .uploading || k.phase == .playing)) := by
  rw [flagsWord, phaseCode_eq_bits]
  congr 1; omega

/-- A valid `ACTIVE` is the bit 31, 23 zeros and the context number (R39). -/
theorem activeWord_some_eq (a : CtxNum) : activeWord (some a) = 1#1 ++ 0#23 ++ a := by
  apply BitVec.eq_of_toNat_eq
  have bound := a.isLt
  have high : (1#1 ++ 0#23 : BitVec 24).toNat = 2 ^ 23 := rfl
  rw [BitVec.toNat_append, high, ← Nat.shiftLeft_add_eq_or_of_lt bound, Nat.shiftLeft_eq]
  exact (trunc32_toNat _).trans (Nat.mod_eq_of_lt (by omega))

/-- Settles O13: FLAGS and IRQSTAT are five packed bits each. -/
theorem packedRegistersHaveTheirLayout : Obligations.PackedRegistersHaveTheirLayout := by
  refine ⟨fun k => ?_, fun s => ?_, rfl, fun a => ?_⟩
  · obtain ⟨alloc, buffering, cbissued, -, -, phase, zero⟩ := packed_bits k.alloc k.buffering k.cbissued
      (k.phase == .chunkAvail || k.phase == .playing) (k.phase == .uploading || k.phase == .playing)
    rw [flagsWord_eq_packed]
    refine ⟨alloc, buffering, cbissued, phase.trans ?_, zero⟩
    cases k.phase <;> rfl
  · obtain ⟨consEn, consPend, xferPend, xferBusy, primeWait, -, zero⟩ :=
      packed_bits s.consEn s.consPend s.xferPend s.xferBusy s.primeWait
    exact ⟨consEn, consPend, xferPend, xferBusy, primeWait, zero⟩
  · rw [activeWord_some_eq]
    refine ⟨?_, ?_, BitVec.extractLsb'_append_eq_right⟩
    · rw [BitVec.getLsbD_append]; rfl
    · rw [BitVec.extractLsb'_append_eq_of_le (by decide)]; rfl

/-! ### The output words -/

/-- An output instruction emits its own encoding, whose zero field is 0 (R95, R96). -/
theorem exec_of_port_output {i : Instr} (h : i.port = .output) (s : State) :
    ∃ dw, encode i = .output dw ∧ exec i s = .next (s.emit dw) ∧ dwZero dw = 0 := by
  cases i
  case setLoop | setIrqAddr | xferStart | keyOn | keyOff | setPitch | setEnv | setStart | cbRefill | cbUnderrun =>
    exact ⟨_, rfl, rfl, dwZero_outputWord ..⟩
  all_goals cases h

/-- Settles O46: the table's rows are the encoder's, and the fields of a built word read back. -/
theorem outputWordsAreAppendedToTheTrace : Obligations.OutputWordsAreAppendedToTheTrace := by
  refine ⟨fun i s h => exec_of_port_output h s, fun _ _ => rfl, fun _ => rfl, fun _ _ _ _ => rfl, fun _ => rfl,
    fun _ => rfl, fun _ _ => rfl, fun _ _ => rfl, fun _ _ => rfl, fun _ _ => rfl, fun _ _ => rfl,
    fun n ch a b c => ?_⟩
  exact ⟨dwKind_outputWord n ch a b c, dwCh_outputWord n ch a b c, dwA_outputWord n ch a b c,
    dwB_outputWord n ch a b c, dwC_outputWord n ch a b c⟩

/-! ### The reset -/

/-- Every context of the reset table is the reset context. -/
theorem eq_reset_of_mem_atReset {cfg : Config} {n : Nat} {k : Context} (h : k ∈ (State.atReset cfg n).ctxs) :
    k = Context.reset := (List.mem_replicate.mp h).2

/-- So is what any context number names there, since a number out of range names the reset context too. -/
@[simp] theorem ctx_atReset (cfg : Config) (n : Nat) (c : CtxNum) : (State.atReset cfg n).ctx c = Context.reset := by
  simp only [State.ctx, State.atReset, List.getD_eq_getElem?_getD, List.getElem?_replicate]
  split <;> rfl

@[simp] theorem ctx_hardwareReset (s : State) (c : CtxNum) : (hardwareReset s).ctx c = Context.reset :=
  ctx_atReset s.config s.nctx c

/-- What the reset table fixes of a state (R51). The transfer record it leaves unspecified is not part of it. -/
structure MeetsResetTable (s : State) : Prop where
  ctxs : ∀ k ∈ s.ctxs, k = Context.reset
  ctx : ∀ c, s.ctx c = Context.reset
  active : s.active = none
  arbiter : s.consEn = false ∧ s.consPend = false ∧ s.xferPend = false ∧ s.xferBusy = false ∧ s.primeWait = false
  vectors : s.fatal = 0 ∧ s.vecCons = 0 ∧ s.vecXfer = 0
  response : s.rstat = 0 ∧ s.rval0 = 0 ∧ s.rval1 = 0
  trace : s.trace = []

theorem meetsResetTable_reset : MeetsResetTable State.reset where
  ctxs _ := eq_reset_of_mem_atReset
  ctx := ctx_atReset _ _
  active := rfl
  arbiter := ⟨rfl, rfl, rfl, rfl, rfl⟩
  vectors := ⟨rfl, rfl, rfl⟩
  response := ⟨rfl, rfl, rfl⟩
  trace := rfl

theorem meetsResetTable_hardwareReset (s : State) : MeetsResetTable (hardwareReset s) where
  ctxs _ := eq_reset_of_mem_atReset (cfg := s.config) (n := s.nctx)
  ctx := ctx_hardwareReset s
  active := rfl
  arbiter := ⟨rfl, rfl, rfl, rfl, rfl⟩
  vectors := ⟨rfl, rfl, rfl⟩
  response := ⟨rfl, rfl, rfl⟩
  trace := rfl

/-- Every register of the map then reads 0. -/
theorem MeetsResetTable.readReg_eq_zero {s : State} (hs : MeetsResetTable s) (c : CtxNum) (r : Reg) :
    readReg s c r = 0 := by
  obtain ⟨consEn, consPend, xferPend, xferBusy, primeWait⟩ := hs.arbiter
  obtain ⟨fatal, vecCons, vecXfer⟩ := hs.vectors
  cases r with
  | chmask => rw [readReg, hs.ctx]; exact BitVec.zero_and
  | active => rw [readReg, hs.active]; rfl
  | irqstat => rw [readReg, irqstatWord, consEn, consPend, xferPend, xferBusy, primeWait]; rfl
  | fatal => exact fatal
  | vecCons => exact vecCons
  | vecXfer => exact vecXfer
  | _ => rw [readReg, hs.ctx]; rfl

/-- Settles O49: the reset turn and the first state both meet the reset table. -/
theorem resetLeavesTheResetTable : Obligations.ResetLeavesTheResetTable := by
  refine ⟨step_reset, fun s hs => ?_⟩
  have table : MeetsResetTable s := by
    rcases hs with rfl | ⟨u, rfl⟩
    · exact meetsResetTable_reset
    · exact meetsResetTable_hardwareReset u
  have registers := table.readReg_eq_zero
  obtain ⟨ctxs, ctx, active, ⟨consEn, consPend, xferPend, xferBusy, primeWait⟩, ⟨fatal, vecCons, vecXfer⟩,
    ⟨rstat, rval0, rval1⟩, trace⟩ := table
  refine ⟨fun k hk => ?_, fun c off => ?_, active, consEn, consPend, xferPend, xferBusy, primeWait, fatal, vecCons,
    vecXfer, rstat, rval0, rval1, trace, registers⟩
  · rw [ctxs k hk]; exact ⟨rfl, rfl, rfl, rfl, rfl⟩
  · rw [State.bufByte, ctx]; rfl

theorem bufOk_reset : BufOk Context.reset := ⟨rfl, nofun, fun _ => rfl⟩

/-- Settles O50: a property of the reset context holds of every context, and the other invariants are of fields that the
reset table clears. -/
theorem resetMeetsTheInvariants : Obligations.ResetMeetsTheInvariants := by
  have every : ∀ P : Context → Prop, P Context.reset → ∀ k ∈ State.reset.ctxs, P k :=
    fun _ hP k hk => meetsResetTable_reset.ctxs k hk ▸ hP
  have memory : MemoryInv State.reset := ⟨every _ bufOk_reset, rfl, nofun, rfl⟩
  have output : TraceInv State.reset := ⟨by decide, by decide, nofun, nofun⟩
  exact ⟨every _ (ringOk_kept Config.default).reset, every _ (phaseOk_kept Config.default).reset,
    every _ (refillOk_kept Config.default).reset, every _ (maskOk_kept Config.default).reset,
    every _ (createdOk_kept Config.default).reset, nofun, ⟨nofun, nofun⟩, memory, output⟩

end Sys2Proof.Machine
end

section
/-! The memories (20_memory.md R60 to R67): each buffer RAM lies inside its ring and device memory inside 32 bits after
every step, `RDBUF` reads what `WRBUF` wrote, and an upload lands the bytes it consumed in the fill half. -/

namespace Sys2Proof.Machine

/-! ### Storing and reading one byte -/

/-- The registers of `c` after a byte is stored in its RAM: the RAM alone has changed (R63). -/
theorem ctx_memWrite_same {s : State} {c : CtxNum} (hctx : c.toNat < s.nctx) (off : Nat) (v : Byte) :
    (memWrite s c off v).ctx c = { s.ctx c with buf := (s.ctx c).buf.write off v } := by
  obtain ⟨ws, e, -⟩ := memWrite_cases s c off v
  rw [e]
  exact ctx_setCtx_same s c _ hctx

@[simp] theorem memWrite_fatal (s : State) (c : CtxNum) (off : Nat) (v : Byte) :
    (memWrite s c off v).fatal = s.fatal := by
  obtain ⟨ws, e, -⟩ := memWrite_cases s c off v
  rw [e]; rfl

/-- The checks of `WRBUF` and `RDBUF` pass on an initialised context of a running block, inside its ring (R100, R160). -/
theorem checked_buffer_run {s : State} {c : CtxNum} {offset : Word} (hready : RingReady s c)
    (hin : offset.toNat < (s.ctx c).capacity.toNat) (run : Result) : checked s (bufferChecks s c offset) run = run := by
  obtain ⟨⟨hfatal, hctx⟩, halloc⟩ := hready
  exact checked_run s _ run (fun _ => hfatal) (decide_eq_true hctx) rfl halloc (decide_eq_true hin)

theorem exec_wrbuf_run {s : State} {c : CtxNum} {offset : Word} (hready : RingReady s c)
    (hin : offset.toNat < (s.ctx c).capacity.toNat) (byte : Byte) :
    exec (.wrbuf c byte offset) s = .next ((memWrite s c offset.toNat byte).respond .ok 0 0) :=
  checked_buffer_run hready hin _

theorem memRead_of_bufByte {s : State} {c : CtxNum} {off : Nat} {v : Byte} (hbyte : s.bufByte c off = some v) :
    memRead s c off = (v, s) := by
  rcases memRead_cases s c off with ⟨w, hw, e⟩ | ⟨hnone, -⟩
  · cases hbyte.symm.trans hw; exact e
  · cases hbyte.symm.trans hnone

/-- `RDBUF` at an offset that holds a byte answers it, and changes the response alone (R62, R118). -/
theorem exec_rdbuf_run {s : State} {c : CtxNum} {offset : Word} {v : Byte} (hready : RingReady s c)
    (hin : offset.toNat < (s.ctx c).capacity.toNat) (hbyte : s.bufByte c offset.toNat = some v) :
    exec (.rdbuf c offset) s = .next (s.respond .ok (v.setWidth 32) 0) := by
  refine (checked_buffer_run hready hin _).trans ?_
  rw [memRead_of_bufByte hbyte]

/-- Storing a byte and answering leaves the context as ready as it was. -/
theorem ringReady_stored {s : State} {c : CtxNum} (hready : RingReady s c) (off : Nat) (v : Byte) :
    RingReady ((memWrite s c off v).respond .ok 0 0) c := by
  obtain ⟨⟨hfatal, hctx⟩, halloc⟩ := hready
  have hn : (memWrite s c off v).nctx = s.nctx := (sameParameters_memWrite s c off v).2
  refine ⟨⟨(memWrite_fatal ..).trans hfatal, hn ▸ hctx⟩, ?_⟩
  rw [ctx_respond, ctx_memWrite_same hctx]
  exact halloc

/-- Settles O29: the store leaves the registers that the checks of `RDBUF` look at, and the byte is there to read. -/
theorem rdbufReadsWhatWrbufWrote : Obligations.RdbufReadsWhatWrbufWrote := by
  intro s c byte offset hready hin
  have ⟨⟨_, hctx⟩, _⟩ := hready
  have hstored := ctx_memWrite_same hctx offset.toNat byte
  have hread := exec_rdbuf_run (v := byte) (ringReady_stored hready offset.toNat byte)
    (by rw [ctx_respond, hstored]; exact hin)
    (by rw [State.bufByte, ctx_respond, hstored]; exact memory_read_write_same _ _ _)
  exact ⟨_, _, exec_wrbuf_run hready hin byte, hread, rfl, rfl, rfl, fun _ _ => rfl, fun _ => rfl⟩

/-! ### What an upload leaves of the transfer record -/

/-- Replacing a context by one with the same RAM changes no RAM. -/
theorem buf_setCtx {s : State} {c : CtxNum} {k : Context} (hk : k.buf = (s.ctx c).buf) (d : CtxNum) :
    ((s.setCtx c k).ctx d).buf = (s.ctx d).buf := by
  rcases ctx_setCtx_cases s c k d with ⟨rfl, e⟩ | e <;> rw [e]
  exact hk

/-- Taking a chunk moves `TAIL`, not bytes (R112, R135). -/
theorem buf_takeChunk (s : State) (a d : CtxNum) : ((takeChunk s a).ctx d).buf = (s.ctx d).buf :=
  buf_setCtx (by rfl) d

theorem buf_requestRefill (s : State) (a d : CtxNum) : ((requestRefill s a).ctx d).buf = (s.ctx d).buf := by
  have hctx : (requestRefill s a).ctx d = (s.setCtx a _).ctx d := ctx_of_ctxs (requestRefill_ctxs s a) d
  rw [hctx]
  exact buf_setCtx (by rfl) d

/-- The RAM noted at the start of an upload is the source RAM as it stood before it (R78; log entry 9). -/
theorem uploadChunk_xferSnap (s : State) (a : CtxNum) : (uploadChunk s a).xferSnap = (s.ctx a).buf :=
  calc (uploadChunk s a).xferSnap = ((requestRefill (takeChunk s a) a).ctx a).buf := rfl
    _ = ((takeChunk s a).ctx a).buf := buf_requestRefill _ a a
    _ = (s.ctx a).buf := buf_takeChunk s a a

/-! ### An upload delivers the bytes it consumed -/

/-- The entry of the consumption logic changes the phase of the active stream at most (R143). -/
theorem ctx_enterIdle {s : State} {a : CtxNum} (ha : a.toNat < s.nctx) : (enterIdle s a).ctx a = idled (s.ctx a) := by
  unfold enterIdle idled
  split
  · exact ctx_setCtx_same s a _ ha
  · rfl

@[simp] theorem nctx_enterIdle (s : State) (a : CtxNum) : (enterIdle s a).nctx = s.nctx := by
  rcases enterIdle_cases s a with e | ⟨-, e⟩ <;> rw [e]
  exact nctx_setCtx s a _

/-- A run that takes a chunk is an upload from the idled active stream (R143). -/
theorem eq_uploadChunk_of_ran {s t : State} {a : CtxNum} (hact : s.active = some a)
    (h : consumptionLogic s = .ran t true) : t = uploadChunk (enterIdle (acknowledge s) a) a := by
  rcases consumptionLogic_cases s with ⟨-, e⟩ | ⟨b, u, hb, rfl, hrun⟩
  · rw [e] at h; cases h
  · cases hact.symm.trans hb
    rcases hrun with ⟨-, e⟩ | ⟨-, -, e⟩ | ⟨-, -, e⟩ <;> rw [e] at h <;> cases h
    rfl

theorem ctx_uploadChunk {s : State} {a : CtxNum} (ha : a.toNat < s.nctx) :
    (uploadChunk s a).ctx a = uploaded (s.ctx a) :=
  (ctx_of_ctxs (t := uploadChunk s a) (s := s.setCtx a (uploaded (s.ctx a))) (uploadChunk_ctxs s a) a).trans
    (ctx_setCtx_same s a _ ha)

/-- What `XFER_START` takes from the context is what the context still holds after it (R138). -/
theorem startUpload_record {s : State} {a : CtxNum} (src : Word) (ha : a.toNat < s.nctx) :
    (startUpload s a src).xferDst = halfAddr ((startUpload s a src).ctx a) ((startUpload s a src).ctx a).dbidx ∧
      (startUpload s a src).xferLen = ((startUpload s a src).ctx a).chunk := by
  have hctx : (startUpload s a src).ctx a = { s.ctx a with phase := .uploading } := ctx_setCtx_same s a _ ha
  rw [hctx]
  exact ⟨rfl, rfl⟩

/-- The transfer an upload puts in flight: the chunk at the old `TAIL`, to the half that `DBIDX` numbers after its toggle
(R137, R138). -/
theorem uploadChunk_record {s : State} {a : CtxNum} (ha : a.toNat < s.nctx) :
    (uploadChunk s a).xferDst = halfAddr (s.ctx a) ((s.ctx a).dbidx ^^^ 1) ∧
      (uploadChunk s a).xferLen = (s.ctx a).chunk := by
  have hn : (reprogram (requestRefill (takeChunk s a) a) a).nctx = s.nctx := by
    change (requestRefill (takeChunk s a) a).ctxs.length = s.ctxs.length
    rw [requestRefill_ctxs, List.length_set]
    exact List.length_set
  obtain ⟨hdst, hlen⟩ := startUpload_record (s.ctx a).tail (hn ▸ ha)
  rw [show (startUpload _ a _).ctx a = _ from ctx_uploadChunk ha] at hdst hlen
  exact ⟨hdst, hlen⟩

/-- Right after the upload has started, a byte of the chunk inside the ring is the one the RAM holds (R78). -/
theorem payload_uploadChunk {s : State} {a : CtxNum} {i : Nat} {v : Byte} (ha : a.toNat < s.nctx)
    (hin : (s.ctx a).tail.toNat + i < (s.ctx a).capacity.toNat)
    (hbyte : s.bufByte a ((s.ctx a).tail.toNat + i) = some v) : payload (uploadChunk s a) i = v := by
  have hcap : ((uploadChunk s a).ctx (uploadChunk s a).xferCtx).capacity = (s.ctx a).capacity :=
    calc ((uploadChunk s a).ctx a).capacity = (uploaded (s.ctx a)).capacity := by rw [ctx_uploadChunk ha]
      _ = (s.ctx a).capacity := rfl
  have hsnap : (uploadChunk s a).xferSnap.read ((s.ctx a).tail.toNat + i) = some v := by
    rw [uploadChunk_xferSnap]; exact hbyte
  exact payload_of_snap rfl (hcap ▸ hin) hsnap

/-- Bytes less than 2^32 apart land at different addresses (R67). -/
theorem landAddr_ne {s : State} {i j : Nat} (hij : i < j) (hj : j < 2 ^ 32) : landAddr s i ≠ landAddr s j := by
  intro heq
  simp only [landAddr, trunc32_toNat] at heq
  have bound := s.xferDst.isLt
  omega

/-- A landed byte reads back from its own address, as the bytes after it land elsewhere (R67, R150). -/
theorem landBytes_read_landAddr {s : State} {n i : Nat} (hn : n ≤ 2 ^ 32) (hi : i < n) :
    (landBytes s n).read (landAddr s i) = some (payload s i) := by
  induction n with
  | zero => cases hi
  | succ n ih =>
    rcases Nat.lt_succ_iff_lt_or_eq.mp hi with hlt | rfl
    · have hother := memory_read_write_other (landBytes s n) _ _ (payload s n) (landAddr_ne (s := s) hlt (by omega))
      exact hother.trans (ih (by omega) hlt)
    · exact memory_read_write_same _ _ _

/-- Byte `i` of the transfer lands `i` bytes into the half the transfer goes to (R66, R67). -/
theorem landAddr_of_xferDst {s : State} {k : Context} {h : BitVec 1} (hdst : s.xferDst = halfAddr k h) (i : Nat) :
    landAddr s i = (trunc32 (k.devbase.toNat + h.toNat * k.chunk.toNat + i)).toNat := by
  simp [landAddr, hdst, halfAddr]

/-- With a transfer in flight, `EV_XFER_DONE` lands it and turns `XFER_BUSY` into `XFER_PEND` (R150). -/
theorem execEvXferDone_of_busy {s : State} (hbusy : s.xferBusy = true) :
    exec .evXferDone s = .next { s with
      devmem := landBytes s s.xferLen.toNat, freeCount := s.freeCount + s.xferLen.toNat
      xferBusy := false, xferPend := true } := by
  simp [exec, execEvXferDone, hbusy]

/-- Settles O42: the noted RAM holds the chunk, nothing has written it since, and each byte lands at its own address. -/
theorem uploadDeliversTheConsumedBytes : Obligations.UploadDeliversTheConsumedBytes := by
  intro s t a hact ha _ hfits _ hrun
  let u := enterIdle (acknowledge s) a
  have ht : t = uploadChunk u a := eq_uploadChunk_of_ran hact hrun
  have hidled : u.ctx a = idled (s.ctx a) := ctx_enterIdle (s := acknowledge s) ha
  have hau : a.toNat < u.nctx := (nctx_enterIdle (acknowledge s) a).symm ▸ ha
  obtain ⟨hdst, hlen⟩ := uploadChunk_record hau
  rw [← ht, hidled] at hdst hlen
  refine ⟨_, execEvXferDone_of_busy (by rw [ht]; rfl), rfl, rfl, fun i hi v hbyte => ?_⟩
  have hpayload : payload t i = v := by
    have hin : (s.ctx a).tail.toNat + i < (s.ctx a).capacity.toNat := by omega
    rw [ht]
    refine payload_uploadChunk hau ?_ ?_
    · rw [hidled]; exact hin
    · rw [State.bufByte, hidled]; exact hbyte
  have hlanded : (landBytes t t.xferLen.toNat).read (landAddr t i) = some (payload t i) :=
    landBytes_read_landAddr t.xferLen.isLt.le (by rw [hlen]; exact hi)
  rw [landAddr_of_xferDst hdst, hpayload] at hlanded
  exact hlanded

/-! ### The memories stay inside their address spaces -/

@[simp] theorem enterIdle_xferSnap (s : State) (a : CtxNum) : (enterIdle s a).xferSnap = s.xferSnap := by
  rcases enterIdle_cases s a with e | ⟨-, e⟩ <;> rw [e]
  rfl

@[simp] theorem underrunBranch_xferSnap (s : State) (a : CtxNum) : (underrunBranch s a).xferSnap = s.xferSnap := by
  unfold underrunBranch
  dsimp only
  split <;> rfl

/-- `WRCFG` writes no byte of the RAM (R161). -/
@[simp] theorem writeCfg_buf (cfg : Config) (k : Context) (reg : BitVec 8) (v : Word) :
    (writeCfg cfg k reg v).buf = k.buf := by
  unfold writeCfg
  split <;> rfl

theorem bufOk_kept (cfg : Config) : KeptByUpdates cfg BufOk where
  reset := bufOk_reset
  config k reg v hk hfree := by
    obtain ⟨-, -, hempty⟩ := hk
    have buf' : (writeCfg cfg k reg v).buf = [] := (writeCfg_buf cfg k reg v).trans (hempty hfree)
    rw [BufOk, buf']
    exact ⟨rfl, nofun, fun _ => rfl⟩
  commit _ _ hk _ := hk
  rate _ _ hk _ := hk
  byte k off v hk halloc hin := by
    obtain ⟨hwf, hbelow, -⟩ := hk
    refine ⟨memory_write_wf _ _ _ hwf, fun p hp => ?_,
      fun hfree => absurd (hfree.symm.trans halloc) Bool.false_ne_true⟩
    rcases memory_mem_write _ _ _ _ hp with rfl | hold
    · exact hin
    · exact hbelow p hold
  create _ _ _ _ _ _ _ _ := ⟨rfl, nofun, fun _ => rfl⟩
  destroy _ _ _ := ⟨rfl, nofun, fun _ => rfl⟩
  idle _ hk _ := hk
  upload _ hk _ := hk
  landed _ hk := hk

/-- The memories outside the contexts: device memory, canonical with 32-bit addresses (R60), and the noted source RAM,
canonical (log entry 9). -/
def SharedMemoryOk (s : State) : Prop :=
  s.devmem.wf = true ∧ (∀ p ∈ s.devmem, p.1 < 2 ^ 32) ∧ s.xferSnap.wf = true

theorem memoryInv_iff {s : State} : MemoryInv s ↔ (∀ k ∈ s.ctxs, BufOk k) ∧ SharedMemoryOk s := Iff.rfl

/-- Every byte lands at an address of 32 bits (R67). -/
theorem landBytes_addr_lt {s : State} (h : ∀ p ∈ s.devmem, p.1 < 2 ^ 32) (n : Nat) :
    ∀ p ∈ landBytes s n, p.1 < 2 ^ 32 := by
  induction n with
  | zero => exact h
  | succ n ih =>
    intro p hp
    rcases memory_mem_write _ _ _ _ hp with rfl | hold
    · exact (trunc32 (s.xferDst.toNat + n)).isLt
    · exact ih p hold

theorem sharedMemoryOk_execEvXferDone {s t : State} (hs : SharedMemoryOk s) (h : execEvXferDone s = .next t) :
    SharedMemoryOk t := by
  obtain ⟨hwf, hbelow, hsnap⟩ := hs
  unfold execEvXferDone at h
  split at h <;> cases h
  · exact ⟨landBytes_wf s _ hwf, landBytes_addr_lt hbelow _, hsnap⟩
  · exact ⟨hwf, hbelow, hsnap⟩

/-- A run of the consumption logic notes a RAM that is canonical, or leaves the noted one as it was; it lands nothing. -/
theorem memoryInv_consumptionLogic {s t : State} {started : Bool} (hs : MemoryInv s)
    (h : consumptionLogic s = .ran t started) : MemoryInv t := by
  obtain ⟨hbufs, hwf, hbelow, hsnap⟩ := hs
  have hdev : t.devmem = s.devmem := by rw [(consumptionLogic_frame (.inl ⟨_, h⟩)).1]
  refine ⟨kept_consumptionLogic (bufOk_kept s.config) hbufs (.inl ⟨_, h⟩), hdev ▸ hwf, hdev ▸ hbelow, ?_⟩
  rcases consumptionLogic_cases s with ⟨-, e⟩ | ⟨a, u, -, hu, hrun⟩
  · rw [e] at h; cases h
    exact hsnap
  have hsnapu : u.xferSnap = s.xferSnap := hu ▸ enterIdle_xferSnap (acknowledge s) a
  rcases hrun with ⟨-, e⟩ | ⟨-, -, e⟩ | ⟨-, -, e⟩ <;> rw [e] at h <;> cases h
  · rw [underrunBranch_xferSnap, hsnapu]; exact hsnap
  · have hbufsu : ∀ k ∈ u.ctxs, BufOk k :=
      hu ▸ kept_enterIdle (bufOk_kept s.config) a (s := acknowledge s) hbufs
    rw [uploadChunk_xferSnap]
    exact (kept_ctx (bufOk_kept s.config) hbufsu a).1

theorem memoryInv_startTail {s t : State} {c : CtxNum} (hs : MemoryInv s) (h : startTail s c = .next t) :
    MemoryInv t := by
  unfold startTail at h
  split at h <;> cases h
  next u _ hrun =>
  have ran : MemoryInv u := memoryInv_consumptionLogic (s := s.emitAll (startWords s c)) hs hrun
  exact ran

theorem memoryInv_startBody {s t : State} {c : CtxNum} {resume : Bool} (hs : MemoryInv s)
    (h : startBody c resume s = .next t) : MemoryInv t := by
  have bound : MemoryInv (bind s c) := hs
  unfold startBody at h
  split at h
  · cases h; exact hs
  split at h
  · exact memoryInv_startTail bound h
  split at h
  · cases h
  · next u hprime =>
    cases h
    have primed : MemoryInv u := memoryInv_consumptionLogic bound hprime
    exact primed
  · next u hprime => exact memoryInv_startTail (memoryInv_consumptionLogic bound hprime) h

/-- A checked command keeps the memories where its own outcome does, since a refusal answers only. -/
theorem sharedMemoryOk_checked {s t : State} {k : Checks} {run : Result} (hs : SharedMemoryOk s)
    (h : checked s k run = .next t) (hrun : run = .next t → SharedMemoryOk t) : SharedMemoryOk t := by
  rcases checked_cases h with ⟨st, v, e⟩ | ⟨e, -⟩
  · cases e; exact hs
  · exact hrun e.symm

theorem sharedMemoryOk_execInit {s t : State} {c : CtxNum} (hs : SharedMemoryOk s) (h : execInit c s = .next t) :
    SharedMemoryOk t := by
  refine sharedMemoryOk_checked hs h fun hrun => ?_
  split at hrun
  · cases hrun; exact hs
  split at hrun
  · cases hrun; exact hs
  split at hrun
  · cases hrun; exact hs
  · cases hrun
    rw [createContext, loseSource_eq]
    exact hs

/-- Device memory is written by `EV_XFER_DONE` only and the noted RAM by `START` only; no other instruction writes
either. -/
theorem sharedMemoryOk_exec {i : Instr} {s t : State} (hs : MemoryInv s) (h : exec i s = .next t) :
    SharedMemoryOk t := by
  obtain ⟨-, hshared⟩ := memoryInv_iff.mp hs
  cases i with
  | evXferDone => exact sharedMemoryOk_execEvXferDone hshared h
  | start c resume =>
    exact sharedMemoryOk_checked hshared h fun hrun => (memoryInv_iff.mp (memoryInv_startBody hs hrun)).2
  | init c => exact sharedMemoryOk_execInit hshared h
  | destroy c =>
    refine sharedMemoryOk_checked hshared h fun hrun => ?_
    cases hrun
    rw [destroyContext, loseSource_eq]
    exact hshared
  | wrbuf c byte offset =>
    refine sharedMemoryOk_checked hshared h fun hrun => ?_
    cases hrun
    obtain ⟨ws, e, -⟩ := memWrite_cases s c offset.toNat byte
    rw [e]
    exact hshared
  | rdbuf c offset =>
    refine sharedMemoryOk_checked hshared h fun hrun => ?_
    cases hrun
    rcases memRead_cases s c offset.toNat with ⟨v, -, e⟩ | ⟨-, e⟩ <;> rw [e] <;> exact hshared
  | rdreg c reg =>
    simp only [exec, execRdreg] at h
    split at h <;> exact sharedMemoryOk_checked hshared h fun hrun => by cases hrun; exact hshared
  | stop =>
    refine sharedMemoryOk_checked hshared h fun hrun => ?_
    split at hrun <;> cases hrun <;> exact hshared
  | wrcfg | setrate | isactive | reflen | feedptr | feed =>
    exact sharedMemoryOk_checked hshared h fun hrun => by cases hrun; exact hshared
  | evConsEdge =>
    cases h
    split <;> exact hshared
  | setLoop | setIrqAddr | xferStart | keyOn | keyOff | setPitch | setEnv | setStart | cbRefill | cbUnderrun =>
    cases h; exact hshared

theorem sharedMemoryOk_completionHandler {s : State} (hs : SharedMemoryOk s) :
    SharedMemoryOk (completionHandler s) := by
  unfold completionHandler
  dsimp only
  split <;> exact hs

/-- Every step keeps the memories outside the contexts. -/
theorem sharedMemoryOk_step {s t : State} (hs : MemoryInv s) (h : step s = .next t) : SharedMemoryOk t := by
  obtain ⟨-, hshared⟩ := memoryInv_iff.mp hs
  rcases step_next_cases h with ⟨_, rfl, -⟩ | ⟨rfl, -⟩ | ⟨i, ts, ws, hrun, -⟩ | ⟨-, hrun⟩ | ⟨-, hrun⟩ | ⟨-, hrun⟩ |
    ⟨-, rfl⟩ | ⟨_, -, rfl⟩
  case inl | inr.inl => exact hshared
  · exact sharedMemoryOk_exec (s := { s with turns := ts, cmdPort := ws }) hs hrun
  · unfold dispatchXfer at hrun
    split at hrun <;> cases hrun
    · exact sharedMemoryOk_completionHandler (s := { s with turns := s.turns.tail }) hshared
    · exact hshared
  · unfold dispatchCons at hrun
    split at hrun
    · split at hrun <;> cases hrun
      exact (memoryInv_iff.mp (memoryInv_consumptionLogic (s := { s with turns := s.turns.tail }) hs ‹_›)).2
    · cases hrun; exact hshared
  · unfold startPhase2 at hrun
    split at hrun
    · exact (memoryInv_iff.mp
        (memoryInv_startTail (s := { s with turns := s.turns.tail, primeWait := false }) hs hrun)).2
    · cases hrun; exact hshared
  · obtain ⟨hwf, hbelow, -⟩ := hshared
    exact ⟨hwf, hbelow, rfl⟩
  · exact hshared

/-- Settles O57: the buffer RAMs by the updates of a context, the memories outside the contexts by the cases of a step. -/
theorem memoryInvariantIsKept : Obligations.MemoryInvariantIsKept :=
  fun s _ hinv hstep =>
    have ⟨hbufs, _⟩ := memoryInv_iff.mp hinv
    memoryInv_iff.mpr ⟨kept_step (bufOk_kept s.config) rfl hbufs hstep, sharedMemoryOk_step hinv hstep⟩

end Sys2Proof.Machine
end

section
/-! The encoding (30_encoding.md R81 to R97): the decoder undoes the encoder and the encoder the decoder, and a word is
of a row of the opcode table exactly where it matches under the row's mask. -/

namespace Sys2Proof

/-- Where a mask keeps every bit of a field, the field is what the match says. -/
theorem eq_of_and_ones {n : Nat} {b m v : BitVec n} (h : b &&& m = v) (hm : m = BitVec.allOnes n) : b = v := by
  rw [← h, hm, BitVec.and_allOnes]

/-! ### The operand word of START -/

theorem cwImmHigh_eq (w : CommandWord) : cwImmHigh w = (cwImm w).extractLsb' 1 31 := by
  unfold cwImmHigh cwImm
  ext j hj
  simp

theorem cwResume_eq (w : CommandWord) : cwResume w = (cwImm w).getLsbD 0 := by
  simp [cwResume, cwImm]

theorem cwImmHigh_and (w m : CommandWord) : cwImmHigh (w &&& m) = cwImmHigh w &&& cwImmHigh m := by
  unfold cwImmHigh; ext j hj; simp

/-- `imm[31:1]` and `imm[0]` are the two parts of the operand word (R85). -/
theorem cwImm_eq_append (w : CommandWord) : cwImm w = cwImmHigh w ++ BitVec.ofBool (cwResume w) := by
  unfold cwImm cwImmHigh cwResume
  ext j hj
  rw [BitVec.getElem_append]
  cases j <;> simp [Nat.add_comm]

theorem resumeImm_eq_append (resume : Bool) : resumeImm resume = 0#31 ++ BitVec.ofBool resume := by
  cases resume <;> rfl

/-- Where `imm[31:1]` is 0, the operand word is the one of its `resume` bit (R85). -/
theorem cwImm_of_cwImmHigh {w : CommandWord} (h : cwImmHigh w = 0) : cwImm w = resumeImm (cwResume w) := by
  rw [cwImm_eq_append, h, resumeImm_eq_append]; rfl

@[simp] theorem cwImmHigh_commandWord (op c a : BitVec 8) (imm : Word) :
    cwImmHigh (commandWord op c a imm) = imm.extractLsb' 1 31 := by
  rw [cwImmHigh_eq, cwImm_commandWord]

@[simp] theorem cwResume_commandWord_resumeImm (op c a : BitVec 8) (resume : Bool) :
    cwResume (commandWord op c a (resumeImm resume)) = resume := by
  rw [cwResume_eq, cwImm_commandWord]
  cases resume <;> rfl

@[simp] theorem resumeImm_high (resume : Bool) : (resumeImm resume).extractLsb' 1 31 = 0 := by
  cases resume <;> rfl

/-! ### The formats of a command word -/

section Formats
variable {w : CommandWord} {op : BitVec 8}

theorem formatRI_iff : formatRI w = true ↔ cwRsvd w = 0 := by simp [formatRI]

theorem formatR_iff : formatR w = true ↔ cwRsvd w = 0 ∧ cwImm w = 0 := by simp [formatR]

theorem formatI_iff : formatI w = true ↔ cwRsvd w = 0 ∧ cwAux w = 0 := by simp [formatI]

theorem formatN_iff : formatN w = true ↔ cwRsvd w = 0 ∧ cwAux w = 0 ∧ cwImm w = 0 := by simp [formatN, and_assoc]

theorem formatG_iff : formatG w = true ↔ cwCtx w = 0 ∧ formatN w = true := by simp [formatG]

theorem formatStart_iff : formatStart w = true ↔ formatI w = true ∧ cwImmHigh w = 0 := by simp [formatStart]

/-! A word of a format is built from its opcode and the fields the format leaves free (R83 to R87). -/

theorem commandWord_of_formatRI (hop : cwOp w = op) (h : formatRI w = true) :
    commandWord op (cwCtx w) (cwAux w) (cwImm w) = w :=
  hop ▸ commandWord_of_fields w (formatRI_iff.mp h)

theorem commandWord_of_formatR (hop : cwOp w = op) (h : formatR w = true) :
    commandWord op (cwCtx w) (cwAux w) 0 = w := by
  obtain ⟨hrsvd, himm⟩ := formatR_iff.mp h
  rw [← hop, ← himm, commandWord_of_fields w hrsvd]

theorem commandWord_of_formatI (hop : cwOp w = op) (h : formatI w = true) :
    commandWord op (cwCtx w) 0 (cwImm w) = w := by
  obtain ⟨hrsvd, haux⟩ := formatI_iff.mp h
  rw [← hop, ← haux, commandWord_of_fields w hrsvd]

theorem commandWord_of_formatN (hop : cwOp w = op) (h : formatN w = true) : commandWord op (cwCtx w) 0 0 = w := by
  obtain ⟨hrsvd, haux, himm⟩ := formatN_iff.mp h
  have built := commandWord_of_formatI hop (formatI_iff.mpr ⟨hrsvd, haux⟩)
  rwa [himm] at built

theorem commandWord_of_formatG (hop : cwOp w = op) (h : formatG w = true) : commandWord op 0 0 0 = w := by
  obtain ⟨hctx, hn⟩ := formatG_iff.mp h
  have built := commandWord_of_formatN hop hn
  rwa [hctx] at built

theorem commandWord_of_formatStart (hop : cwOp w = op) (h : formatStart w = true) :
    commandWord op (cwCtx w) 0 (resumeImm (cwResume w)) = w := by
  obtain ⟨hi, hhigh⟩ := formatStart_iff.mp h
  have built := commandWord_of_formatI hop hi
  rwa [cwImm_of_cwImmHigh hhigh] at built

/-! A word that meets the mask of a format, with only an opcode in the match, is a word of that format (R89). -/

/-- Masking a word masks each of its fields. -/
theorem fields_of_masked {m : CommandWord} (h : w &&& m = commandWord op 0 0 0) :
    cwOp w &&& cwOp m = op ∧ cwCtx w &&& cwCtx m = 0 ∧ cwRsvd w &&& cwRsvd m = 0 ∧ cwAux w &&& cwAux m = 0 ∧
      cwImm w &&& cwImm m = 0 := by
  rw [← cwOp_and, ← cwCtx_and, ← cwRsvd_and, ← cwAux_and, ← cwImm_and, h]
  simp

theorem commandWord_of_maskRI (h : w &&& 0xFF00FF0000000000 = commandWord op 0 0 0) :
    commandWord op (cwCtx w) (cwAux w) (cwImm w) = w := by
  obtain ⟨hop, -, hrsvd, -, -⟩ := fields_of_masked h
  exact commandWord_of_formatRI (eq_of_and_ones hop rfl) (formatRI_iff.mpr (eq_of_and_ones hrsvd rfl))

theorem commandWord_of_maskR (h : w &&& 0xFF00FF00FFFFFFFF = commandWord op 0 0 0) :
    commandWord op (cwCtx w) (cwAux w) 0 = w := by
  obtain ⟨hop, -, hrsvd, -, himm⟩ := fields_of_masked h
  exact commandWord_of_formatR (eq_of_and_ones hop rfl)
    (formatR_iff.mpr ⟨eq_of_and_ones hrsvd rfl, eq_of_and_ones himm rfl⟩)

theorem commandWord_of_maskI (h : w &&& 0xFF00FFFF00000000 = commandWord op 0 0 0) :
    commandWord op (cwCtx w) 0 (cwImm w) = w := by
  obtain ⟨hop, -, hrsvd, haux, -⟩ := fields_of_masked h
  exact commandWord_of_formatI (eq_of_and_ones hop rfl)
    (formatI_iff.mpr ⟨eq_of_and_ones hrsvd rfl, eq_of_and_ones haux rfl⟩)

theorem commandWord_of_maskN (h : w &&& 0xFF00FFFFFFFFFFFF = commandWord op 0 0 0) :
    commandWord op (cwCtx w) 0 0 = w := by
  obtain ⟨hop, -, hrsvd, haux, himm⟩ := fields_of_masked h
  exact commandWord_of_formatN (eq_of_and_ones hop rfl)
    (formatN_iff.mpr ⟨eq_of_and_ones hrsvd rfl, eq_of_and_ones haux rfl, eq_of_and_ones himm rfl⟩)

theorem commandWord_of_maskStart (h : w &&& 0xFF00FFFFFFFFFFFE = commandWord op 0 0 0) :
    commandWord op (cwCtx w) 0 (resumeImm (cwResume w)) = w := by
  obtain ⟨hop, -, hrsvd, haux, -⟩ := fields_of_masked h
  have hhigh := (cwImmHigh_and w _).symm.trans ((congrArg cwImmHigh h).trans (cwImmHigh_commandWord op 0 0 0))
  exact commandWord_of_formatStart (eq_of_and_ones hop rfl) (formatStart_iff.mpr
    ⟨formatI_iff.mpr ⟨eq_of_and_ones hrsvd rfl, eq_of_and_ones haux rfl⟩, eq_of_and_ones hhigh rfl⟩)

end Formats

/-! ### The formats of an output word -/

section Outputs
variable {w : OutputWord} {kind : BitVec 8}

theorem outFull_iff : outFull w = true ↔ dwZero w = 0 := by simp [outFull]

theorem outChA_iff : outChA w = true ↔ outFull w = true ∧ dwB w = 0 ∧ dwC w = 0 := by simp [outChA, and_assoc]

theorem outA_iff : outA w = true ↔ outChA w = true ∧ dwCh w = 0 := by simp [outA]

theorem outputWord_of_outFull (hkind : dwKind w = kind) (h : outFull w = true) :
    outputWord kind (dwCh w) (dwA w) (dwB w) (dwC w) = w :=
  hkind ▸ outputWord_of_fields w (outFull_iff.mp h)

theorem outputWord_of_outChA (hkind : dwKind w = kind) (h : outChA w = true) :
    outputWord kind (dwCh w) (dwA w) 0 0 = w := by
  obtain ⟨hfull, hb, hc⟩ := outChA_iff.mp h
  have built := outputWord_of_outFull hkind hfull
  rwa [hb, hc] at built

theorem outputWord_of_outA (hkind : dwKind w = kind) (h : outA w = true) : outputWord kind 0 (dwA w) 0 0 = w := by
  obtain ⟨hcha, hch⟩ := outA_iff.mp h
  have built := outputWord_of_outChA hkind hcha
  rwa [hch] at built

/-- Masking a word masks each of its fields. -/
theorem outputFields_of_masked {m : OutputWord} (h : w &&& m = outputWord kind 0 0 0 0) :
    dwKind w &&& dwKind m = kind ∧ dwCh w &&& dwCh m = 0 ∧ dwZero w &&& dwZero m = 0 ∧ dwB w &&& dwB m = 0 ∧
      dwC w &&& dwC m = 0 := by
  rw [← dwKind_and, ← dwCh_and, ← dwZero_and, ← dwB_and, ← dwC_and, h]
  simp

theorem outputWord_of_maskFull (h : w &&& 0xFF00FFFF000000000000000000000000 = outputWord kind 0 0 0 0) :
    outputWord kind (dwCh w) (dwA w) (dwB w) (dwC w) = w := by
  obtain ⟨hkind, -, hzero, -, -⟩ := outputFields_of_masked h
  exact outputWord_of_outFull (eq_of_and_ones hkind rfl) (outFull_iff.mpr (eq_of_and_ones hzero rfl))

theorem outputWord_of_maskChA (h : w &&& 0xFF00FFFF00000000FFFFFFFFFFFFFFFF = outputWord kind 0 0 0 0) :
    outputWord kind (dwCh w) (dwA w) 0 0 = w := by
  obtain ⟨hkind, -, hzero, hb, hc⟩ := outputFields_of_masked h
  exact outputWord_of_outChA (eq_of_and_ones hkind rfl) (outChA_iff.mpr
    ⟨outFull_iff.mpr (eq_of_and_ones hzero rfl), eq_of_and_ones hb rfl, eq_of_and_ones hc rfl⟩)

theorem outputWord_of_maskA (h : w &&& 0xFFFFFFFF00000000FFFFFFFFFFFFFFFF = outputWord kind 0 0 0 0) :
    outputWord kind 0 (dwA w) 0 0 = w := by
  obtain ⟨hkind, hch, hzero, hb, hc⟩ := outputFields_of_masked h
  exact outputWord_of_outA (eq_of_and_ones hkind rfl) (outA_iff.mpr ⟨outChA_iff.mpr
    ⟨outFull_iff.mpr (eq_of_and_ones hzero rfl), eq_of_and_ones hb rfl, eq_of_and_ones hc rfl⟩,
    eq_of_and_ones hch rfl⟩)

end Outputs

/-! ### The round trips -/

/-- Settles O1: the opcode of the built word selects its row, and the fields of the row's format read back. -/
theorem decodeOfEncodeIsTheInstruction : Obligations.DecodeOfEncodeIsTheInstruction := by
  intro i
  cases i with
  | wrcfg | wrbuf => simp [encode, decode, decodeCommand, whenFormat, formatRI_iff]
  | rdreg => simp [encode, decode, decodeCommand, whenFormat, formatR_iff]
  | rdbuf | setrate | feed => simp [encode, decode, decodeCommand, whenFormat, formatI_iff]
  | init | destroy | isactive | reflen | feedptr => simp [encode, decode, decodeCommand, whenFormat, formatN_iff]
  | start => simp [encode, decode, decodeCommand, whenFormat, formatStart_iff, formatI_iff]
  | stop => simp [encode, decode, decodeCommand, whenFormat, formatG_iff, formatN_iff]
  | evConsEdge | evXferDone => rfl
  | xferStart => simp [encode, xferStartWord, decode, decodeOutput, whenArguments, outFull_iff]
  | setLoop | setPitch | setEnv | setStart | cbRefill | cbUnderrun =>
    simp [encode, setLoopWord, setPitchWord, setEnvWord, setStartWord, cbRefillWord, cbUnderrunWord, decode,
      decodeOutput, whenArguments, outChA_iff, outFull_iff]
  | setIrqAddr | keyOn | keyOff =>
    simp [encode, setIrqAddrWord, keyOnWord, keyOffWord, decode, decodeOutput, whenArguments, outA_iff, outChA_iff,
      outFull_iff]

theorem encode_of_decodeCommand {w : CommandWord} {i : Instr} (h : decodeCommand w = .ok i) :
    encode i = .command w := by
  rcases decodeCommand_ok h with ⟨hop, hfmt, rfl⟩ | ⟨hop, hfmt, rfl⟩ | ⟨hop, hfmt, rfl⟩ | ⟨hop, hfmt, rfl⟩ |
    ⟨hop, hfmt, rfl⟩ | ⟨hop, hfmt, rfl⟩ | ⟨hop, hfmt, rfl⟩ | ⟨hop, hfmt, rfl⟩ | ⟨hop, hfmt, rfl⟩ | ⟨hop, hfmt, rfl⟩ |
    ⟨hop, hfmt, rfl⟩ | ⟨hop, hfmt, rfl⟩ | ⟨hop, hfmt, rfl⟩
  · exact congrArg _ (commandWord_of_formatRI hop hfmt)
  · exact congrArg _ (commandWord_of_formatR hop hfmt)
  · exact congrArg _ (commandWord_of_formatRI hop hfmt)
  · exact congrArg _ (commandWord_of_formatI hop hfmt)
  · exact congrArg _ (commandWord_of_formatN hop hfmt)
  · exact congrArg _ (commandWord_of_formatN hop hfmt)
  · exact congrArg _ (commandWord_of_formatStart hop hfmt)
  · exact congrArg _ (commandWord_of_formatG hop hfmt)
  · exact congrArg _ (commandWord_of_formatI hop hfmt)
  · exact congrArg _ (commandWord_of_formatN hop hfmt)
  · exact congrArg _ (commandWord_of_formatN hop hfmt)
  · exact congrArg _ (commandWord_of_formatN hop hfmt)
  · exact congrArg _ (commandWord_of_formatI hop hfmt)

theorem encode_of_decodeOutput {w : OutputWord} {i : Instr} (h : decodeOutput w = .ok i) : encode i = .output w := by
  rcases decodeOutput_ok h with ⟨hkind, hargs, rfl⟩ | ⟨hkind, hargs, rfl⟩ | ⟨hkind, hargs, rfl⟩ |
    ⟨hkind, hargs, rfl⟩ | ⟨hkind, hargs, rfl⟩ | ⟨hkind, hargs, rfl⟩ | ⟨hkind, hargs, rfl⟩ | ⟨hkind, hargs, rfl⟩ |
    ⟨hkind, hargs, rfl⟩ | ⟨hkind, hargs, rfl⟩
  · exact congrArg _ (outputWord_of_outChA hkind hargs)
  · exact congrArg _ (outputWord_of_outA hkind hargs)
  · exact congrArg _ (outputWord_of_outFull hkind hargs)
  · exact congrArg _ (outputWord_of_outA hkind hargs)
  · exact congrArg _ (outputWord_of_outA hkind hargs)
  · exact congrArg _ (outputWord_of_outChA hkind hargs)
  · exact congrArg _ (outputWord_of_outChA hkind hargs)
  · exact congrArg _ (outputWord_of_outChA hkind hargs)
  · exact congrArg _ (outputWord_of_outChA hkind hargs)
  · exact congrArg _ (outputWord_of_outChA hkind hargs)

/-- Settles O2: a row fixes every field that its instruction does not carry. -/
theorem decodedWordsEncodeBack : Obligations.DecodedWordsEncodeBack :=
  ⟨fun _ _ => encode_of_decodeCommand, fun _ _ => encode_of_decodeOutput⟩

theorem decode_of_encode {i : Instr} {pw : PortWord} (h : encode i = pw) : decode pw = .ok i :=
  h ▸ decodeOfEncodeIsTheInstruction i

/-! ### The rows of the opcode table -/

/-- The family RowMatch put together: every instruction's encoding meets its row (R89, R93, R96). -/
theorem rowMatch : ∀ i, Laws.RowMatch.Statement i
  | .wrcfg c r v => Laws.RowMatch.wrcfg c r v
  | .rdreg c r => Laws.RowMatch.rdreg c r
  | .wrbuf c b o => Laws.RowMatch.wrbuf c b o
  | .rdbuf c o => Laws.RowMatch.rdbuf c o
  | .init c => Laws.RowMatch.init c
  | .destroy c => Laws.RowMatch.destroy c
  | .start c r => Laws.RowMatch.start c r
  | .stop => Laws.RowMatch.stop
  | .setrate c v => Laws.RowMatch.setrate c v
  | .isactive c => Laws.RowMatch.isactive c
  | .reflen c => Laws.RowMatch.reflen c
  | .feedptr c => Laws.RowMatch.feedptr c
  | .feed c n => Laws.RowMatch.feed c n
  | .evConsEdge => Laws.RowMatch.evConsEdge
  | .evXferDone => Laws.RowMatch.evXferDone
  | .setLoop ch a => Laws.RowMatch.setLoop ch a
  | .setIrqAddr a => Laws.RowMatch.setIrqAddr a
  | .xferStart c d o l => Laws.RowMatch.xferStart c d o l
  | .keyOn m => Laws.RowMatch.keyOn m
  | .keyOff m => Laws.RowMatch.keyOff m
  | .setPitch ch p => Laws.RowMatch.setPitch ch p
  | .setEnv ch e => Laws.RowMatch.setEnv ch e
  | .setStart ch a => Laws.RowMatch.setStart ch a
  | .cbRefill c h => Laws.RowMatch.cbRefill c h
  | .cbUnderrun c h => Laws.RowMatch.cbUnderrun c h

theorem commandRow_of_decode {w : CommandWord} {i : Instr} (h : decode (.command w) = .ok i) :
    ∃ p m, commandRow i = some (p, m) ∧ w &&& m = p := by
  have row := rowMatch i
  rw [Laws.RowMatch.Statement, encode_of_decodeCommand h] at row
  exact row

theorem outputRow_of_decode {w : OutputWord} {i : Instr} (h : decode (.output w) = .ok i) :
    ∃ p m, outputRow i = some (p, m) ∧ w &&& m = p := by
  have row := rowMatch i
  rw [Laws.RowMatch.Statement, encode_of_decodeOutput h] at row
  exact row

/-- A word that matches a row is the encoding of an instruction of that row: the one with the word's own fields. -/
theorem exists_encode_of_commandRow {w : CommandWord} {i : Instr} {p m : CommandWord}
    (hrow : commandRow i = some (p, m)) (hw : w &&& m = p) :
    ∃ j, encode j = .command w ∧ commandRow j = some (p, m) := by
  cases i with
  | wrcfg => cases hrow; exact ⟨.wrcfg _ _ _, congrArg _ (commandWord_of_maskRI hw), rfl⟩
  | rdreg => cases hrow; exact ⟨.rdreg _ _, congrArg _ (commandWord_of_maskR hw), rfl⟩
  | wrbuf => cases hrow; exact ⟨.wrbuf _ _ _, congrArg _ (commandWord_of_maskRI hw), rfl⟩
  | rdbuf => cases hrow; exact ⟨.rdbuf _ _, congrArg _ (commandWord_of_maskI hw), rfl⟩
  | init => cases hrow; exact ⟨.init _, congrArg _ (commandWord_of_maskN hw), rfl⟩
  | destroy => cases hrow; exact ⟨.destroy _, congrArg _ (commandWord_of_maskN hw), rfl⟩
  | start => cases hrow; exact ⟨.start _ _, congrArg _ (commandWord_of_maskStart hw), rfl⟩
  | stop => cases hrow; exact ⟨.stop, congrArg _ (eq_of_and_ones hw rfl).symm, rfl⟩
  | setrate => cases hrow; exact ⟨.setrate _ _, congrArg _ (commandWord_of_maskI hw), rfl⟩
  | isactive => cases hrow; exact ⟨.isactive _, congrArg _ (commandWord_of_maskN hw), rfl⟩
  | reflen => cases hrow; exact ⟨.reflen _, congrArg _ (commandWord_of_maskN hw), rfl⟩
  | feedptr => cases hrow; exact ⟨.feedptr _, congrArg _ (commandWord_of_maskN hw), rfl⟩
  | feed => cases hrow; exact ⟨.feed _ _, congrArg _ (commandWord_of_maskI hw), rfl⟩
  | evConsEdge | evXferDone | setLoop | setIrqAddr | xferStart | keyOn | keyOff | setPitch | setEnv | setStart
  | cbRefill | cbUnderrun => cases hrow

theorem exists_encode_of_outputRow {w : OutputWord} {i : Instr} {p m : OutputWord}
    (hrow : outputRow i = some (p, m)) (hw : w &&& m = p) :
    ∃ j, encode j = .output w ∧ outputRow j = some (p, m) := by
  cases i with
  | setLoop => cases hrow; exact ⟨.setLoop _ _, congrArg _ (outputWord_of_maskChA hw), rfl⟩
  | setIrqAddr => cases hrow; exact ⟨.setIrqAddr _, congrArg _ (outputWord_of_maskA hw), rfl⟩
  | xferStart => cases hrow; exact ⟨.xferStart _ _ _ _, congrArg _ (outputWord_of_maskFull hw), rfl⟩
  | keyOn => cases hrow; exact ⟨.keyOn _, congrArg _ (outputWord_of_maskA hw), rfl⟩
  | keyOff => cases hrow; exact ⟨.keyOff _, congrArg _ (outputWord_of_maskA hw), rfl⟩
  | setPitch => cases hrow; exact ⟨.setPitch _ _, congrArg _ (outputWord_of_maskChA hw), rfl⟩
  | setEnv => cases hrow; exact ⟨.setEnv _ _, congrArg _ (outputWord_of_maskChA hw), rfl⟩
  | setStart => cases hrow; exact ⟨.setStart _ _, congrArg _ (outputWord_of_maskChA hw), rfl⟩
  | cbRefill => cases hrow; exact ⟨.cbRefill _ _, congrArg _ (outputWord_of_maskChA hw), rfl⟩
  | cbUnderrun => cases hrow; exact ⟨.cbUnderrun _ _, congrArg _ (outputWord_of_maskChA hw), rfl⟩
  | wrcfg | rdreg | wrbuf | rdbuf | init | destroy | start | stop | setrate | isactive | reflen | feedptr | feed
  | evConsEdge | evXferDone => cases hrow

/-- Settles O3: a word that decodes is the encoding of what it decodes to, which meets its row; a word that meets a row
is an encoding, which decodes. -/
theorem commandWordsFollowTheOpcodeMap : Obligations.CommandWordsFollowTheOpcodeMap := by
  intro w i p m hrow
  constructor
  · rintro ⟨j, hdec, hj⟩
    obtain ⟨p', m', hj', hw⟩ := commandRow_of_decode hdec
    cases hj.symm.trans hj'
    exact hw
  · intro hw
    obtain ⟨j, henc, hj⟩ := exists_encode_of_commandRow hrow hw
    exact ⟨j, decode_of_encode henc, hj⟩

/-- Settles O4, by the two round trips as for the command words. -/
theorem outputWordsFollowTheKindTable : Obligations.OutputWordsFollowTheKindTable := by
  intro w i p m hrow
  constructor
  · rintro ⟨j, hdec, hj⟩
    obtain ⟨p', m', hj', hw⟩ := outputRow_of_decode hdec
    cases hj.symm.trans hj'
    exact hw
  · intro hw
    obtain ⟨j, henc, hj⟩ := exists_encode_of_outputRow hrow hw
    exact ⟨j, decode_of_encode henc, hj⟩

/-- Settles O5: each word is the encoding of the instruction it is read as, fields and all. -/
theorem wordsOfTheSpecDecode : Obligations.WordsOfTheSpecDecode :=
  ⟨decode_of_encode rfl, decode_of_encode rfl, decode_of_encode rfl, decode_of_encode rfl, decode_of_encode rfl,
    decode_of_encode rfl, decode_of_encode rfl, decode_of_encode rfl, decode_of_encode rfl⟩

end Sys2Proof
end

section
/-! What a word or an edge at a port comes to: a word of no row is answered and nothing else (30_encoding.md R90), the
first check that fails answers (R100), and two simultaneous edges commute (R93). -/

namespace Sys2Proof.Machine

/-! ### A word of no row -/

theorem fetchCommand_of_error {s : State} {w : CommandWord} {ws : List CommandWord} {e : DecodeError}
    (hopen : s.primeWait = false) (hport : s.cmdPort = w :: ws) (hdec : decode (.command w) = .error e) :
    fetchCommand s = .done (.next (illegalWord { s with cmdPort := ws })) := by
  unfold fetchCommand
  rw [if_neg (by simp [hopen])]
  split
  · next hnil => cases hport.symm.trans hnil
  · next w' ws' hcons =>
    cases hport.symm.trans hcons
    rw [hdec]

/-- A word that matches no row of the opcode map does not decode (R89, R90). -/
theorem decode_eq_error_of_no_row {w : CommandWord} (hnone : ∀ i p m, commandRow i = some (p, m) → w &&& m ≠ p) :
    ∃ e, decode (.command w) = .error e := by
  cases hdec : decode (.command w) with
  | error e => exact ⟨e, rfl⟩
  | ok i =>
    obtain ⟨p, m, hrow, hw⟩ := commandRow_of_decode hdec
    exact absurd hw (hnone i p m hrow)

/-- Settles O6: such a word does not decode, so HOST's turn answers it. -/
theorem illegalWordsAreOnlyAnswered : Obligations.IllegalWordsAreOnlyAnswered := by
  intro s rest w ws hturn hopen hport hnone
  obtain ⟨e, hdec⟩ := decode_eq_error_of_no_row hnone
  rw [step_of_turn s _ rest hturn, takeTurn, fetchCommand_of_error (s := { s with turns := rest }) hopen hport hdec]
  rfl

/-! ### The order of checks -/

/-- The checks of a command find what R100, R160, R48 and R61 say of it. -/
structure ChecksMeet (s : State) (i : Instr) (k : Checks) : Prop where
  halt : HaltCheck s i ↔ (k.haltable && s.fatal != 0) = false
  context : ContextCheck s i ↔ k.ctxOk = true
  register : RegisterCheck i ↔ k.regOk = true
  state : StateCheck s i ↔ k.stateOk = true
  offset : OffsetCheck s i ↔ k.offsetOk = true

/-- The numbers that name a register are those of the map (R48). -/
theorem regOf_isSome_iff : ∀ n : BitVec 8, (regOf n).isSome = true ↔ n.toNat ∈ registerNumbers := by decide

theorem haltCheck_of_ne_rdreg {s : State} {i : Instr} (h : ∀ c r, i ≠ .rdreg c r) :
    HaltCheck s i ↔ (true && s.fatal != 0) = false := by
  simp [HaltCheck, h]

theorem haltCheck_rdreg (s : State) (c : CtxNum) (r : BitVec 8) :
    HaltCheck s (.rdreg c r) ↔ (false && s.fatal != 0) = false := by
  simp [HaltCheck]

theorem contextCheck_of_named {s : State} {i : Instr} {c : CtxNum} (h : i.namedCtx = some c) :
    ContextCheck s i ↔ s.hasCtx c = true := by
  simp [ContextCheck, h, State.hasCtx]

/-- `RDREG` checks its register number by naming the register (R48, R162). -/
theorem exec_rdreg_eq_checked (c : CtxNum) (r : BitVec 8) (s : State) :
    ∃ run, exec (.rdreg c r) s =
      checked s { haltable := false, ctxOk := s.hasCtx c, regOk := (regOf r).isSome } run := by
  change ∃ run, execRdreg c r s = _
  unfold execRdreg
  split
  · next hname => rw [hname]; exact ⟨_, rfl⟩
  · next hname => rw [hname]; exact ⟨_, rfl⟩

/-- Every command runs behind the checks that the tables give it. -/
theorem exec_eq_checked {i : Instr} (h : i.port = .command) (s : State) :
    ∃ k run, exec i s = checked s k run ∧ ChecksMeet s i k := by
  cases i with
  | rdreg c r =>
    obtain ⟨run, hexec⟩ := exec_rdreg_eq_checked c r s
    exact ⟨_, run, hexec, haltCheck_rdreg s c r, contextCheck_of_named rfl, (regOf_isSome_iff r).symm,
      by simp [StateCheck], by simp [OffsetCheck]⟩
  | stop =>
    exact ⟨_, _, rfl, haltCheck_of_ne_rdreg nofun, by simp [ContextCheck, Instr.namedCtx], by simp [RegisterCheck],
      by simp [StateCheck], by simp [OffsetCheck]⟩
  | wrbuf | rdbuf =>
    exact ⟨_, _, rfl, haltCheck_of_ne_rdreg nofun, contextCheck_of_named rfl,
      by simp [RegisterCheck, bufferChecks, feedChecks], Iff.rfl, by simp [OffsetCheck, bufferChecks]⟩
  | wrcfg | init | destroy | start | setrate | isactive | reflen | feedptr | feed =>
    exact ⟨_, _, rfl, haltCheck_of_ne_rdreg nofun, contextCheck_of_named rfl,
      by simp [RegisterCheck, isCfgReg, feedChecks], by simp [StateCheck, feedChecks],
      by simp [OffsetCheck, feedChecks]⟩
  | evConsEdge | evXferDone | setLoop | setIrqAddr | xferStart | keyOn | keyOff | setPitch | setEnv | setStart
  | cbRefill | cbUnderrun => cases h

/-- Settles O10: the checks run in the order of R100, and each refusal writes the response only. -/
theorem firstFailingCheckAnswers : Obligations.FirstFailingCheckAnswers := by
  intro s i hport
  obtain ⟨k, run, hexec, hhalt, hctx, hreg, hstate, hoffset⟩ := exec_eq_checked hport s
  rw [hexec, hhalt, hctx, hreg, hstate, hoffset]
  simp only [Bool.not_eq_true, Bool.not_eq_false]
  refine ⟨fun halted => ?_, fun runs noCtx => ?_, fun runs ctx noReg => ?_, fun runs ctx reg noState => ?_,
    fun runs ctx reg state noOffset => ?_⟩
  · simp only [checked, halted, if_true]; rfl
  · simp only [checked, runs, noCtx]; rfl
  · simp only [checked, runs, ctx, noReg]; rfl
  · simp only [checked, runs, ctx, reg, noState]; rfl
  · simp only [checked, runs, ctx, reg, state, noOffset]; rfl

/-! ### Simultaneous edges -/

theorem exec_evConsEdge_of_enabled {s : State} (h : s.consEn = true) :
    exec .evConsEdge s = .next { s with consPend := true } := by
  simp [exec, execEvConsEdge, h]

theorem exec_evConsEdge_of_disabled {s : State} (h : s.consEn = false) : exec .evConsEdge s = .next s := by
  simp [exec, execEvConsEdge, h]

theorem exec_evXferDone_of_idle {s : State} (h : s.xferBusy = false) : exec .evXferDone s = .next s := by
  simp [exec, execEvXferDone, h]

/-- What lands does not depend on the consumption interrupt's pending bit. -/
theorem landBytes_consPend (s : State) (pend : Bool) (n : Nat) :
    landBytes { s with consPend := pend } n = landBytes s n := by
  induction n with
  | zero => rfl
  | succ n ih => exact congrArg (fun m => m.write (landAddr s n) (payload s n)) ih

/-- Settles O45: the edge latches one bit, which the transfer's landing neither reads nor writes. -/
theorem simultaneousEventsCommute : Obligations.SimultaneousEventsCommute := by
  intro s
  cases hen : s.consEn with
  | false =>
    have lost {u : State} (h : u.consEn = false) := exec_evConsEdge_of_disabled h
    cases hbusy : s.xferBusy with
    | false => exact ⟨s, s, s, lost hen, exec_evXferDone_of_idle hbusy, exec_evXferDone_of_idle hbusy, lost hen⟩
    | true => exact ⟨s, _, _, lost hen, execEvXferDone_of_busy hbusy, execEvXferDone_of_busy hbusy, lost hen⟩
  | true =>
    have latched := exec_evConsEdge_of_enabled hen
    cases hbusy : s.xferBusy with
    | false => exact ⟨_, s, _, latched, exec_evXferDone_of_idle hbusy, exec_evXferDone_of_idle hbusy, latched⟩
    | true =>
      refine ⟨_, _, _, latched, ?_, execEvXferDone_of_busy hbusy, exec_evConsEdge_of_enabled hen⟩
      rw [← landBytes_consPend s true]
      exact execEvXferDone_of_busy hbusy

end Sys2Proof.Machine
end

section
/-! The words of the trace (30_encoding.md R95 to R97): what the block emits is of the ten kinds and names existing
channels and contexts, in every operation that emits, and so after every step. -/

namespace Sys2Proof.Machine

/-! ### What the block emits is legal -/

theorem outputOk_of_encode {s : State} {i : Instr} {dw : OutputWord} (henc : encode i = .output dw)
    (hwf : i.wellFormed s.config s.nctx = true) : OutputOk s dw :=
  ⟨i, decode_of_encode henc, hwf⟩

/-- The mask of a context names existing channels only (R27). -/
theorem maskOk_chmaskOf (cfg : Config) (k : Context) : maskOk cfg (chmaskOf cfg k) = true := by
  refine decide_eq_true (Nat.lt_pow_two_of_testBit _ fun i hi => ?_)
  exact Bool.eq_false_iff.mpr fun hbit => absurd (lt_nch_of_chmaskOf hbit) (Nat.not_lt.mpr hi)

/-- There are at most 32 channels, so a channel's number fits the 8 bits of `ch` (R7, R95). -/
theorem channelOk_of_mem_chansOf {cfg : Config} {k : Context} {i : Nat} (hcfg : cfg.inRange = true)
    (h : i ∈ chansOf cfg k) : channelOk cfg (BitVec.ofNat 8 i) = true := by
  have hnch : cfg.nch ≤ 32 := by
    simp only [Config.inRange, Bool.and_eq_true, decide_eq_true_eq] at hcfg
    omega
  have hi : i < cfg.nch := (mem_chansOf.mp h).1
  refine decide_eq_true ?_
  rw [BitVec.toNat_ofNat]
  omega

/-- The words of a per-channel loop are legal where they are for every channel that exists (R12). -/
theorem outputOk_perChannel {s : State} {f : Nat → BitVec 8 → List OutputWord} (k : Context)
    (hcfg : s.config.inRange = true)
    (hf : ∀ n ch, channelOk s.config ch = true → ∀ dw ∈ f n ch, OutputOk s dw) :
    ∀ dw ∈ perChannel f (chansOf s.config k), OutputOk s dw := by
  intro dw hdw
  obtain ⟨⟨i, n⟩, hmem, hin⟩ := List.mem_flatMap.mp hdw
  exact hf n _ (channelOk_of_mem_chansOf hcfg (List.fst_mem_of_mem_zipIdx hmem)) dw hin

section Words
variable {s : State} (hcfg : s.config.inRange = true) (c : CtxNum)
include hcfg

theorem outputOk_startWords : ∀ dw ∈ startWords s c, OutputOk s dw := by
  rw [startWords]
  refine outputOk_perChannel (s.ctx c) hcfg fun n ch hch => ?_
  simp only [List.forall_mem_cons]
  exact ⟨outputOk_of_encode (i := .setStart _ _) rfl hch, outputOk_of_encode (i := .setPitch _ _) rfl hch,
    outputOk_of_encode (i := .setEnv _ _) rfl (by simp [Instr.wellFormed, hch]), nofun⟩

theorem outputOk_stopWords : ∀ dw ∈ stopWords s c, OutputOk s dw := by
  refine List.forall_mem_cons.mpr ⟨outputOk_of_encode (i := .keyOff _) rfl (maskOk_chmaskOf _ _), ?_⟩
  refine outputOk_perChannel _ hcfg fun n ch hch => ?_
  simp only [List.forall_mem_cons]
  exact ⟨outputOk_of_encode (i := .setStart _ _) rfl hch, outputOk_of_encode (i := .setLoop _ _) rfl hch, nofun⟩

theorem outputOk_rateWords (rate : Word) : ∀ dw ∈ rateWords s c rate, OutputOk s dw := by
  refine outputOk_perChannel _ hcfg fun n ch hch => ?_
  exact List.forall_mem_singleton.mpr (outputOk_of_encode (i := .setPitch _ _) rfl hch)

end Words

/-- A callback carries an existing context and a registered handle (R33). -/
theorem wellFormed_callback {nctx : Nat} {c : CtxNum} {handle : Word} (hc : c.toNat < nctx) (hreg : handle ≠ 0) :
    (contextOk nctx c && handle != 0) = true :=
  Bool.and_eq_true_iff.mpr ⟨decide_eq_true hc, bne_iff_ne.mpr hreg⟩

/-! ### The operations keep the trace legal -/

theorem traceInv_emitAll {s : State} {ws : List OutputWord} (hs : TraceInv s) (hws : ∀ dw ∈ ws, OutputOk s dw) :
    TraceInv (s.emitAll ws) := by
  obtain ⟨hcfg, hn, htrace, hturns⟩ := hs
  exact ⟨hcfg, hn, List.forall_mem_append.mpr ⟨htrace, hws⟩, hturns⟩

theorem traceInv_emit {s : State} {i : Instr} {dw : OutputWord} (hs : TraceInv s) (henc : encode i = .output dw)
    (hwf : i.wellFormed s.config s.nctx = true) : TraceInv (s.emit dw) :=
  traceInv_emitAll hs (List.forall_mem_singleton.mpr (outputOk_of_encode henc hwf))

/-- The rule speaks of the parameters, the trace and the turns. -/
theorem TraceInv.congr {s t : State} (hs : TraceInv s) (hparams : SameParameters s t) (htrace : t.trace = s.trace)
    (hturns : t.turns = s.turns) : TraceInv t := by
  obtain ⟨hcfg, hn⟩ := hparams
  unfold TraceInv OutputOk
  rw [hcfg, hn, htrace, hturns]
  exact hs

theorem traceInv_setCtx {s : State} (hs : TraceInv s) (c : CtxNum) (k : Context) : TraceInv (s.setCtx c k) :=
  hs.congr (sameParameters_setCtx s c k) rfl rfl

theorem traceInv_memWrite {s : State} (hs : TraceInv s) (c : CtxNum) (off : Nat) (v : Byte) :
    TraceInv (memWrite s c off v) := by
  obtain ⟨ws, e, -⟩ := memWrite_cases s c off v
  rw [e]
  exact traceInv_setCtx hs c _

theorem traceInv_memRead {s : State} (hs : TraceInv s) (c : CtxNum) (off : Nat) : TraceInv (memRead s c off).2 := by
  rcases memRead_cases s c off with ⟨v, -, e⟩ | ⟨-, e⟩ <;> rw [e] <;> exact hs

theorem traceInv_createContext {s : State} (hs : TraceInv s) (c : CtxNum) : TraceInv (createContext s c) := by
  unfold createContext
  rw [loseSource_eq]
  exact traceInv_setCtx hs c _

theorem traceInv_destroyContext {s : State} (hs : TraceInv s) (c : CtxNum) : TraceInv (destroyContext s c) := by
  unfold destroyContext
  rw [loseSource_eq]
  exact traceInv_setCtx hs c _

theorem traceInv_enterIdle {s : State} (hs : TraceInv s) (a : CtxNum) : TraceInv (enterIdle s a) := by
  rcases enterIdle_cases s a with e | ⟨-, e⟩ <;> rw [e]
  · exact hs
  · exact traceInv_setCtx hs a _

theorem traceInv_completionHandler {s : State} (hs : TraceInv s) : TraceInv (completionHandler s) := by
  unfold completionHandler
  dsimp only
  split
  · exact hs
  · exact traceInv_setCtx (s := { s with xferPend := false, consEn := true }) hs _ _

/-- The reset empties the trace (R51). -/
theorem traceInv_hardwareReset {s : State} (hs : TraceInv s) : TraceInv (hardwareReset s) := by
  obtain ⟨hcfg, hn, -, hturns⟩ := hs
  have emptied : TraceInv { s with trace := [] } := ⟨hcfg, hn, nofun, hturns⟩
  exact emptied.congr (sameParameters_hardwareReset s) rfl rfl

theorem traceInv_underrunBranch {s : State} {a : CtxNum} (hs : TraceInv s) (ha : a.toNat < s.nctx) :
    TraceInv (underrunBranch s a) := by
  unfold underrunBranch
  dsimp only
  split
  · exact hs
  · next hreg =>
    have called : TraceInv (s.emit (cbUnderrunWord a (s.ctx a).cbUnderrun)) :=
      traceInv_emit (i := .cbUnderrun _ _) hs rfl (wellFormed_callback ha hreg)
    exact called

theorem traceInv_requestRefill {s : State} {a : CtxNum} (hs : TraceInv s) (ha : a.toNat < s.nctx) :
    TraceInv (requestRefill s a) := by
  unfold requestRefill
  split
  · dsimp only
    split
    · exact traceInv_setCtx hs a _
    · next hreg =>
      have called : TraceInv (s.emit (cbRefillWord a (s.ctx a).cbRefill)) :=
        traceInv_emit (i := .cbRefill _ _) hs rfl (wellFormed_callback ha hreg)
      exact traceInv_setCtx called a _
  · exact hs

theorem traceInv_reprogram {s : State} (hs : TraceInv s) (a : CtxNum) : TraceInv (reprogram s a) := by
  have ⟨hcfg, _⟩ := hs
  refine traceInv_emitAll hs (List.forall_mem_cons.mpr ⟨outputOk_of_encode (i := .setIrqAddr _) rfl rfl, ?_⟩)
  refine outputOk_perChannel _ hcfg fun n ch hch => ?_
  exact List.forall_mem_singleton.mpr (outputOk_of_encode (i := .setLoop _ _) rfl hch)

theorem traceInv_startUpload {s : State} {a : CtxNum} (hs : TraceInv s) (ha : a.toNat < s.nctx) (src : Word) :
    TraceInv (startUpload s a src) := by
  have started := traceInv_emit (dw := xferStartWord a (halfAddr (s.ctx a) (s.ctx a).dbidx) src (s.ctx a).chunk)
    (i := .xferStart _ _ _ _) hs rfl (decide_eq_true ha)
  have marked := traceInv_setCtx started a { s.ctx a with phase := .uploading }
  exact marked

theorem nctx_requestRefill (s : State) (a : CtxNum) : (requestRefill s a).nctx = s.nctx := by
  rw [State.nctx, requestRefill_ctxs, List.length_set, State.nctx]

theorem traceInv_uploadChunk {s : State} {a : CtxNum} (hs : TraceInv s) (ha : a.toNat < s.nctx) :
    TraceInv (uploadChunk s a) := by
  have htaken : (takeChunk s a).nctx = s.nctx := nctx_setCtx s a _
  have hrefilled := (nctx_requestRefill (takeChunk s a) a).trans htaken
  have taken : TraceInv (takeChunk s a) := traceInv_setCtx hs a _
  have refilled := traceInv_requestRefill taken (htaken ▸ ha)
  exact traceInv_startUpload (traceInv_reprogram refilled a) (hrefilled ▸ ha) _

/-- The active stream, if any, is a context that exists. -/
def ActiveExists (s : State) : Prop := ∀ a, s.active = some a → a.toNat < s.nctx

theorem activeExists_of_activeInv {s : State} (h : ActiveInv s) : ActiveExists s := fun a hact =>
  have ⟨hstream, _⟩ := h
  (hstream a hact).1

theorem traceInv_consumptionLogic {s t : State} {started : Bool} (hs : TraceInv s) (hact : ActiveExists s)
    (h : consumptionLogic s = .ran t started) : TraceInv t := by
  rcases consumptionLogic_cases s with ⟨-, e⟩ | ⟨a, u, ha, rfl, hrun⟩
  · rw [e] at h; cases h
    exact hs
  have entered : TraceInv (enterIdle (acknowledge s) a) := traceInv_enterIdle (s := acknowledge s) hs a
  have hau : a.toNat < (enterIdle (acknowledge s) a).nctx := (nctx_enterIdle (acknowledge s) a).symm ▸ hact a ha
  rcases hrun with ⟨-, e⟩ | ⟨-, -, e⟩ | ⟨-, -, e⟩ <;> rw [e] at h <;> cases h
  · exact traceInv_underrunBranch entered hau
  · exact traceInv_uploadChunk entered hau

theorem activeExists_consumptionLogic {s t : State} {started : Bool} (hact : ActiveExists s)
    (h : consumptionLogic s = .ran t started) : ActiveExists t := by
  intro a ha
  rw [(sameParameters_consumptionLogic h).2]
  exact hact a ((actsOn_consumptionLogic h).active ▸ ha)

theorem traceInv_startTail {s t : State} {c : CtxNum} (hs : TraceInv s) (hact : ActiveExists s)
    (h : startTail s c = .next t) : TraceInv t := by
  have ⟨hcfg, _⟩ := hs
  have worded := traceInv_emitAll hs (outputOk_startWords hcfg c)
  unfold startTail at h
  split at h <;> cases h
  next u _ hrun =>
  have ran := traceInv_consumptionLogic worded hact hrun
  have keyed := traceInv_emit (i := .keyOn _) ran rfl (maskOk_chmaskOf u.config (u.ctx c))
  exact keyed

theorem traceInv_startBody {s t : State} {c : CtxNum} {resume : Bool} (hs : TraceInv s) (hc : c.toNat < s.nctx)
    (h : startBody c resume s = .next t) : TraceInv t := by
  have bound : TraceInv (bind s c) := hs
  have hact : ActiveExists (bind s c) := fun a ha => by cases ha; exact hc
  unfold startBody at h
  split at h
  · cases h; exact hs
  split at h
  · exact traceInv_startTail bound hact h
  split at h
  · cases h
  · next u hprime =>
    cases h
    have primed : TraceInv u := traceInv_consumptionLogic bound hact hprime
    exact primed
  · next u hprime =>
    exact traceInv_startTail (traceInv_consumptionLogic bound hact hprime) (activeExists_consumptionLogic hact hprime) h

/-! ### The instructions and the steps -/

/-- A refused command emits nothing, so a checked command keeps the trace legal where its own outcome does. -/
theorem traceInv_checked {s t : State} {k : Checks} {run : Result} (hs : TraceInv s) (h : checked s k run = .next t)
    (hrun : run = .next t → k.ctxOk = true → TraceInv t) : TraceInv t := by
  rcases checked_cases h with ⟨st, v, e⟩ | ⟨e, -, hctx, -⟩
  · cases e; exact hs
  · exact hrun e.symm hctx

theorem traceInv_execInit {s t : State} {c : CtxNum} (hs : TraceInv s) (h : execInit c s = .next t) : TraceInv t := by
  refine traceInv_checked hs h fun hrun _ => ?_
  split at hrun
  · cases hrun; exact hs
  split at hrun
  · cases hrun; exact hs
  split at hrun
  · cases hrun; exact hs
  · cases hrun; exact traceInv_createContext hs c

/-- An output instruction emits its own encoding (R95). -/
theorem traceInv_output {i : Instr} {s t : State} (hs : TraceInv s) (hport : i.port = .output)
    (hwf : i.wellFormed s.config s.nctx = true) (h : exec i s = .next t) : TraceInv t := by
  obtain ⟨dw, henc, hexec, -⟩ := exec_of_port_output hport s
  rw [hexec] at h; cases h
  exact traceInv_emit hs henc hwf

/-- `START`, `STOP` and `SETRATE` emit legal words; no other command or event emits any. -/
theorem traceInv_exec {i : Instr} {s t : State} (hs : TraceInv s)
    (hwf : i.port = .output → i.wellFormed s.config s.nctx = true) (h : exec i s = .next t) : TraceInv t := by
  have ⟨hcfg, _⟩ := hs
  cases i with
  | start c resume =>
    exact traceInv_checked hs h fun hrun hctx => traceInv_startBody hs (of_decide_eq_true hctx) hrun
  | stop =>
    refine traceInv_checked hs h fun hrun _ => ?_
    split at hrun <;> cases hrun
    · exact hs
    · next a _ =>
      have worded := traceInv_emitAll hs (outputOk_stopWords hcfg a)
      exact worded
  | setrate c rate =>
    refine traceInv_checked hs h fun hrun _ => ?_
    cases hrun
    have worded : TraceInv (s.emitAll (if s.active = some c then rateWords s c rate else [])) := by
      refine traceInv_emitAll hs ?_
      split
      · exact outputOk_rateWords hcfg c rate
      · nofun
    exact traceInv_setCtx worded c { s.ctx c with rate := rate }
  | wrcfg c reg v =>
    refine traceInv_checked hs h fun hrun _ => ?_
    cases hrun
    exact traceInv_setCtx hs c (writeCfg s.config (s.ctx c) reg v)
  | rdreg c reg =>
    simp only [exec, execRdreg] at h
    split at h <;> exact traceInv_checked hs h fun hrun _ => by cases hrun; exact hs
  | wrbuf c b off => exact traceInv_checked hs h fun hrun _ => by cases hrun; exact traceInv_memWrite hs c off.toNat b
  | rdbuf c off => exact traceInv_checked hs h fun hrun _ => by cases hrun; exact traceInv_memRead hs c off.toNat
  | init c => exact traceInv_execInit hs h
  | destroy c => exact traceInv_checked hs h fun hrun _ => by cases hrun; exact traceInv_destroyContext hs c
  | feed c n => exact traceInv_checked hs h fun hrun _ => by cases hrun; exact traceInv_setCtx hs c (commit (s.ctx c) n)
  | isactive | reflen | feedptr => exact traceInv_checked hs h fun hrun _ => by cases hrun; exact hs
  | evConsEdge | evXferDone =>
    cases h
    split <;> exact hs
  | setLoop | setIrqAddr | xferStart | keyOn | keyOff | setPitch | setEnv | setStart | cbRefill | cbUnderrun =>
    exact traceInv_output hs rfl (hwf rfl) h

/-- Turns taken, or an edge left for the next, put nothing more on the output port. -/
theorem traceInv_queues {s : State} {ts : List Turn} (ws : List CommandWord) (hs : TraceInv s)
    (hts : ∀ u ∈ ts, u ∈ s.turns ∨ u = .edges 0b10) : TraceInv { s with turns := ts, cmdPort := ws } := by
  obtain ⟨hcfg, hn, htrace, hturns⟩ := hs
  refine ⟨hcfg, hn, htrace, fun dw hdw => ?_⟩
  rcases hts _ hdw with hold | hedge
  · exact hturns dw hold
  · cases hedge

/-- What a turn puts on the output port is well formed by the premise on the turns. -/
theorem wellFormed_of_output_turn {s : State} {dw : OutputWord} {i : Instr} (hs : TraceInv s)
    (hnext : s.nextTurn = some (.output dw)) (hdec : decode (.output dw) = .ok i) :
    i.wellFormed s.config s.nctx = true := by
  obtain ⟨-, -, -, hturns⟩ := hs
  obtain ⟨j, hj, hwf⟩ := hturns dw (List.mem_of_mem_head? hnext)
  cases hdec.symm.trans hj
  exact hwf

/-- Settles O48: every word the block emits is built from an existing channel or context, and a word put on the output
port is legal by the premise on the turns. -/
theorem traceHoldsOnlyLegalWords : Obligations.TraceHoldsOnlyLegalWords := by
  intro s t hs hactive hstep
  have taken : TraceInv { s with turns := s.turns.tail } :=
    traceInv_queues s.cmdPort hs fun u hu => .inl (List.mem_of_mem_tail hu)
  have hact : ActiveExists { s with turns := s.turns.tail } := activeExists_of_activeInv hactive
  rcases step_next_cases hstep with ⟨ts, rfl, hts⟩ | ⟨rfl, -⟩ | ⟨i, ts, ws, hrun, hts, -, hport⟩ | ⟨-, hrun⟩ |
    ⟨-, hrun⟩ | ⟨-, hrun⟩ | ⟨-, rfl⟩ | ⟨_, -, rfl⟩
  · exact traceInv_queues s.cmdPort hs fun u hu => .inl (hts u hu)
  · exact taken
  · refine traceInv_exec (traceInv_queues ws hs hts) (fun houtput => ?_) hrun
    rcases hport with ⟨-, hcommand, -⟩ | ⟨hevent, -⟩ | ⟨-, dw, hnext, hdec⟩
    · cases hcommand.symm.trans houtput
    · cases hevent.symm.trans houtput
    · exact wellFormed_of_output_turn (s := s) hs hnext hdec
  · unfold dispatchXfer at hrun
    split at hrun <;> cases hrun
    · exact traceInv_completionHandler taken
    · exact taken
  · unfold dispatchCons at hrun
    split at hrun
    · split at hrun <;> cases hrun
      exact traceInv_consumptionLogic taken hact ‹_›
    · cases hrun; exact taken
  · unfold startPhase2 at hrun
    split at hrun
    · exact traceInv_startTail (s := { s with turns := s.turns.tail, primeWait := false }) taken hact hrun
    · cases hrun; exact taken
  · exact traceInv_hardwareReset taken
  · exact taken

end Sys2Proof.Machine
end

section
/-! The ring buffer (40_ring_buffer.md): what the feed commands answer and store (R111 to R118), the ring under sequences
of commits and consumes (R120), and what a run of the consumption logic takes out of it (R112, R135 to R138, R144). -/

namespace Sys2Proof.Machine

/-! ### Replacing one context -/

/-- What acts on one context leaves the others. -/
theorem ActsOn.sameOtherContexts {s t : State} {c : CtxNum} (h : ActsOn (some c) s t) : SameOtherContexts s t c :=
  fun d hd => h.others d fun e => hd (Option.some.inj e).symm

theorem sameOtherContexts_setCtx (s : State) (c : CtxNum) (k : Context) : SameOtherContexts s (s.setCtx c k) c :=
  fun d hd => ctx_setCtx_other s c d k hd

/-- Replacing a context by one with the same RAM changes no byte. -/
theorem sameMemory_setCtx {s : State} {c : CtxNum} {k : Context} (hk : k.buf = (s.ctx c).buf) :
    SameMemory s (s.setCtx c k) :=
  ⟨fun d off => congrArg (Memory.read · off) (buf_setCtx hk d), fun _ => rfl⟩

/-! ### The checks of a feed command -/

section Refusals
variable {s : State} {c : CtxNum} {i : Instr}

theorem contextCheck_of_ready (hready : Ready s c) (hnamed : i.namedCtx = some c) : ContextCheck s i :=
  have ⟨_, hctx⟩ := hready
  (contextCheck_of_named hnamed).mpr (decide_eq_true hctx)

/-- Where only the state check fails, a command answers `ERR_STATE` (R100 step 6). -/
theorem exec_refuses_state (hready : Ready s c) (hport : i.port = .command) (hnamed : i.namedCtx = some c)
    (hreg : RegisterCheck i) (hstate : ¬ StateCheck s i) : exec i s = .next (answer s 0x03 0 0) := by
  have ⟨hfatal, _⟩ := hready
  obtain ⟨-, -, -, refuses, -⟩ := firstFailingCheckAnswers s i hport
  exact refuses (.inl hfatal) (contextCheck_of_ready hready hnamed) hreg hstate

/-- Where only the offset check fails, a command answers `ERR_RANGE` (R61, R100 step 7). -/
theorem exec_refuses_offset (hready : Ready s c) (hport : i.port = .command) (hnamed : i.namedCtx = some c)
    (hreg : RegisterCheck i) (hstate : StateCheck s i) (hoffset : ¬ OffsetCheck s i) :
    exec i s = .next (answer s 0x04 0 0) := by
  have ⟨hfatal, _⟩ := hready
  obtain ⟨-, -, -, -, refuses⟩ := firstFailingCheckAnswers s i hport
  exact refuses (.inl hfatal) (contextCheck_of_ready hready hnamed) hreg hstate hoffset

/-- The checks of `REFLEN`, `FEEDPTR` and `FEED` pass on an initialised context of a running block (R100, R160). -/
theorem checked_feed_run (hready : RingReady s c) (run : Result) : checked s (feedChecks s c) run = run := by
  obtain ⟨⟨hfatal, hctx⟩, halloc⟩ := hready
  exact checked_run s _ run (fun _ => hfatal) (decide_eq_true hctx) rfl halloc rfl

end Refusals

/-! ### The free space -/

/-- The free space fits the register that answers it (R114). -/
theorem free_toNat (k : Context) :
    (trunc32 (k.capacity.toNat - k.length.toNat)).toNat = k.capacity.toNat - k.length.toNat :=
  (trunc32_toNat _).trans (Nat.mod_eq_of_lt (free_lt k))

/-- The clamped count fits the register that answers it (R116). -/
theorem commitCount_toNat (k : Context) (n : Word) : (trunc32 (commitCount k n)).toNat = commitCount k n :=
  (trunc32_toNat _).trans (Nat.mod_eq_of_lt ((commitCount_le k n).trans_lt (free_lt k)))

/-- The writable run is the smaller of the free space and the bytes up to the end of the ring (R113). -/
theorem writableRegion_length_toNat (k : Context) :
    (writableRegion k).2.toNat = min (k.capacity.toNat - k.length.toNat) (k.capacity.toNat - k.head.toNat) :=
  (trunc32_toNat _).trans (Nat.mod_eq_of_lt ((Nat.min_le_left _ _).trans_lt (free_lt k)))

/-- As `HEAD` is never at the end of the ring, only a full ring has an empty writable run (R113). -/
theorem writableRegion_length_eq_zero_iff {k : Context} (hlen : k.length.toNat ≤ k.capacity.toNat)
    (hhead : k.head.toNat < k.capacity.toNat) : (writableRegion k).2 = 0 ↔ k.length = k.capacity := by
  rw [← BitVec.toNat_inj, ← BitVec.toNat_inj, writableRegion_length_toNat]
  change _ = 0 ↔ _
  omega

/-- Settles O25: both commands run behind the feed checks, and both answers are at most the free space, so neither is
cut. -/
theorem freeSpaceQueriesAnswer : Obligations.FreeSpaceQueriesAnswer := by
  intro s c hready
  refine ⟨fun hfree => ?_, fun halloc hring => ?_⟩
  · exact ⟨exec_refuses_state hready rfl rfl trivial (ne_true_of_eq_false hfree),
      exec_refuses_state hready rfl rfl trivial (ne_true_of_eq_false hfree)⟩
  · obtain ⟨hlen, hhead, -, -⟩ := hring halloc
    refine ⟨⟨_, checked_feed_run ⟨hready, halloc⟩ _, ?_⟩, _, checked_feed_run ⟨hready, halloc⟩ _,
      writableRegion_length_toNat _, writableRegion_length_eq_zero_iff hlen hhead⟩
    rw [free_toNat, Nat.sub_add_cancel hlen]

/-! ### FEED -/

/-- The state a completed `FEED` leaves (R116). -/
def fed (s : State) (c : CtxNum) (n : Word) : State :=
  (s.setCtx c (commit (s.ctx c) n)).respond .ok (trunc32 (commitCount (s.ctx c) n)) 0

theorem exec_feed_run {s : State} {c : CtxNum} (hready : RingReady s c) (n : Word) :
    exec (.feed c n) s = .next (fed s c n) := checked_feed_run hready _

theorem ctx_fed {s : State} {c : CtxNum} (hctx : c.toNat < s.nctx) (n : Word) :
    (fed s c n).ctx c = commit (s.ctx c) n := ctx_setCtx_same s c _ hctx

/-- A context that has been fed can be fed again. -/
theorem ringReady_fed {s : State} {c : CtxNum} (hready : RingReady s c) (n : Word) : RingReady (fed s c n) c := by
  obtain ⟨⟨hfatal, hctx⟩, halloc⟩ := hready
  refine ⟨⟨hfatal, (nctx_setCtx s c _).symm ▸ hctx⟩, ?_⟩
  rw [ctx_fed hctx]
  exact halloc

/-- Settles O26: `FEED` replaces its context by the committed one; inside the ring invariant no register of `commit`
wraps. -/
theorem feedCommitsTheClampedCount : Obligations.FeedCommitsTheClampedCount := by
  intro s c n hready
  have ⟨_, hctx⟩ := hready
  refine ⟨fun hfree => exec_refuses_state hready rfl rfl trivial (ne_true_of_eq_false hfree), fun halloc hring => ?_⟩
  obtain ⟨hlen, hhead, -, -⟩ := hring halloc
  refine ⟨fed s c n, exec_feed_run ⟨hready, halloc⟩ n, rfl, commitCount_toNat _ n, nctx_setCtx s c _,
    sameOtherContexts_setCtx s c _, sameMemory_setCtx (by rfl), ?_⟩
  rw [ctx_fed hctx]
  exact ⟨commit_frame _ n, (commit_head_toNat _ n).trans (mod_capacity_mod _ (Nat.zero_lt_of_lt hhead)),
    commit_length_toNat n hlen, rfl, ringOk_commit n hring⟩

/-! ### WRBUF and RDBUF -/

/-- The RAM of a context after a byte is stored in it (R62, R63). -/
theorem bufByte_memWrite_same {s : State} {c : CtxNum} (hctx : c.toNat < s.nctx) (off : Nat) (v : Byte) (o : Nat) :
    (memWrite s c off v).bufByte c o = if o = off then some v else s.bufByte c o := by
  rw [State.bufByte, ctx_memWrite_same hctx]
  exact memory_read_write _ off o v

/-- A store writes the contexts, and joins what a transfer in flight out of that RAM may read (R63, R78). -/
theorem memWrite_frame (s : State) (c : CtxNum) (off : Nat) (v : Byte) :
    memWrite s c off v = { s with
      ctxs := (memWrite s c off v).ctxs
      xferWrites := if s.xferBusy = true ∧ s.xferCtx = c then s.xferWrites ++ [(off, v)] else s.xferWrites } := by
  obtain ⟨ws, e, hws⟩ := memWrite_cases s c off v
  simp only [transferring_iff] at hws
  rw [e, hws]
  rfl

@[simp] theorem memWrite_devmem (s : State) (c : CtxNum) (off : Nat) (v : Byte) :
    (memWrite s c off v).devmem = s.devmem := by
  rw [memWrite_frame]

/-- Settles O27: the store changes one byte of one RAM, and the response follows. -/
theorem wrbufStoresOneByte : Obligations.WrbufStoresOneByte := by
  intro s c byte offset hready
  have ⟨_, hctx⟩ := hready
  refine ⟨fun hfree => exec_refuses_state hready rfl rfl trivial (ne_true_of_eq_false hfree), fun halloc hout => ?_,
    fun halloc hin => ?_⟩
  · exact exec_refuses_offset hready rfl rfl trivial halloc hout.not_gt
  have hother := (actsOn_memWrite s c offset.toNat byte).sameOtherContexts
  have hbyte := bufByte_memWrite_same hctx offset.toNat byte
  have hframe := memWrite_frame s c offset.toNat byte
  refine ⟨_, exec_wrbuf_run ⟨hready, halloc⟩ hin byte, congrArg (State.respond · .ok 0 0) hframe,
    (sameParameters_memWrite s c offset.toNat byte).2, hother, ?_, ?_, fun o ho => ?_, fun d o hd => ?_, fun a => ?_⟩
  · rw [ctx_respond, ctx_memWrite_same hctx]
  · exact (hbyte offset.toNat).trans (if_pos rfl)
  · exact (hbyte o).trans (if_neg ho)
  · exact congrArg (fun k : Context => k.buf.read o) (hother d hd)
  · exact congrArg (Memory.read · a) (memWrite_devmem s c offset.toNat byte)

/-- Settles O28: the read gives the byte that is there, or draws a free one. -/
theorem rdbufAnswersTheByte : Obligations.RdbufAnswersTheByte := by
  intro s c offset hready
  refine ⟨fun hfree => exec_refuses_state hready rfl rfl trivial (ne_true_of_eq_false hfree), fun halloc hout => ?_,
    fun halloc hin => ⟨fun v hbyte => ?_, fun hnone => ⟨Config.freeByte s.freeCount, ?_⟩⟩⟩
  · exact exec_refuses_offset hready rfl rfl trivial halloc hout.not_gt
  · exact exec_rdbuf_run ⟨hready, halloc⟩ hin hbyte
  · refine (checked_buffer_run ⟨hready, halloc⟩ hin _).trans ?_
    rcases memRead_cases s c offset.toNat with ⟨v, hbyte, -⟩ | ⟨-, e⟩
    · cases hnone.symm.trans hbyte
    · rw [e]; rfl

/-! ### Sequences of commits and consumes -/

theorem feedAll_cons {s : State} {c : CtxNum} (hready : RingReady s c) (n : Word) (ns : List Word) :
    feedAll c (n :: ns) s = feedAll c ns (fed s c n) := by
  rw [feedAll, exec_feed_run hready]

/-- Settles O30, by induction on the list of sizes: what one commit clamps off, the free space that is left clamps off
the rest of the sum. -/
theorem feedSequencesAccumulate : Obligations.FeedSequencesAccumulate := by
  intro s c ns
  induction ns generalizing s with
  | nil =>
    intro hready hring
    obtain ⟨-, halloc⟩ := hready
    obtain ⟨hlen, -⟩ := hring halloc
    exact ⟨s, rfl, hring, rfl, (Nat.min_eq_right hlen).symm⟩
  | cons n ns ih =>
    intro hready hring
    have ⟨⟨_, hctx⟩, halloc⟩ := hready
    obtain ⟨hlen, -⟩ := hring halloc
    have hfed := ctx_fed hctx n
    obtain ⟨t, hrun, hringt, htail, hlength⟩ := ih (fed s c n) (ringReady_fed hready n) (hfed ▸ ringOk_commit n hring)
    rw [hfed] at htail hlength
    refine ⟨t, (feedAll_cons hready n ns).trans hrun, hringt, htail, hlength.trans ?_⟩
    rw [commit_length_toNat n hlen, List.map_cons, List.sum_cons]
    change min (s.ctx c).capacity.toNat _ = _
    simp only [commitCount]
    omega

/-- `consume` of a chunk that is there keeps the ring, as taking it does (R112). -/
theorem ringOk_consume {k : Context} (hk : RingOk k) (havail : k.chunk.toNat ≤ k.length.toNat) : RingOk (consume k) :=
  ringOk_uploaded hk havail

theorem consume_iterate_alloc (k : Context) (j : Nat) : (consume^[j] k).alloc = k.alloc := by
  induction j generalizing k with
  | zero => rfl
  | succ j ih => exact ih (consume k)

/-- `j` consumes take `j` chunks, as long as they are there, and keep the ring (R112). -/
theorem consume_iterate {k : Context} {j : Nat} (hk : RingOk k) (havail : j * k.chunk.toNat ≤ k.length.toNat) :
    (consume^[j] k).length.toNat = k.length.toNat - j * k.chunk.toNat ∧ RingOk (consume^[j] k) := by
  induction j generalizing k with
  | zero => exact ⟨by simp, hk⟩
  | succ j ih =>
    rw [Nat.succ_mul] at havail ⊢
    have hfirst := ringOk_consume hk (by omega)
    have hlength := consume_length_toNat k
    have hchunk : (consume k).chunk = k.chunk := rfl
    obtain ⟨hrest, hring⟩ := ih hfirst (by rw [hchunk, hlength]; omega)
    refine ⟨?_, hring⟩
    rw [Function.iterate_succ_apply, hrest, hchunk, hlength]
    omega

/-- In an empty ring the next read is the next write (R23). -/
theorem tail_eq_head_of_empty {k : Context} (hk : RingOk k) (halloc : k.alloc = true) (hempty : k.length = 0) :
    k.tail = k.head := by
  obtain ⟨-, -, htail, hring⟩ := hk halloc
  rw [hempty] at hring
  exact BitVec.eq_of_toNat_eq ((Nat.mod_eq_of_lt htail).symm.trans hring)

/-- Settles O31: the commit leaves exactly `j` chunks, the consumes take them, and the ring invariant puts `TAIL` at
`HEAD`. -/
theorem feedingThenConsumingEmptiesTheRing : Obligations.FeedingThenConsumingEmptiesTheRing := by
  intro k j n halloc hring hempty hchunks hfits
  have hlen : k.length.toNat = 0 := by rw [hempty]; rfl
  have hcommitted : (commit k n).length.toNat = j * (commit k n).chunk.toNat := by
    rw [commit_length_toNat n (by omega), commitCount, hlen, Nat.sub_zero, Nat.min_eq_left hfits, Nat.zero_add]
    exact hchunks
  obtain ⟨hlength, hringj⟩ := consume_iterate (ringOk_commit n hring) hcommitted.ge
  rw [hcommitted, Nat.sub_self] at hlength
  have hempty' : (consume^[j] (commit k n)).length = 0 := BitVec.eq_of_toNat_eq hlength
  exact ⟨hempty', tail_eq_head_of_empty hringj ((consume_iterate_alloc _ j).trans halloc) hempty', hringj⟩

/-! ### Taking a chunk -/

@[simp] theorem enterIdle_xferBusy (s : State) (a : CtxNum) : (enterIdle s a).xferBusy = s.xferBusy := by
  rcases enterIdle_cases s a with e | ⟨-, e⟩ <;> rw [e]
  rfl

/-- With a chunk buffered and no transfer in flight, the consumption logic uploads (R133, R143). -/
theorem consumptionLogic_of_available {s : State} {a : CtxNum} (hact : s.active = some a) (ha : a.toNat < s.nctx)
    (havail : (s.ctx a).chunk.toNat ≤ (s.ctx a).length.toNat) (hbusy : s.xferBusy = false) :
    consumptionLogic s = .ran (uploadChunk (enterIdle (acknowledge s) a) a) true := by
  have hctx : (enterIdle (acknowledge s) a).ctx a = idled (s.ctx a) := ctx_enterIdle (s := acknowledge s) ha
  have hnounder : underrunDue ((enterIdle (acknowledge s) a).ctx a) = false := by
    rw [hctx]; exact decide_eq_false havail.not_gt
  rcases consumptionLogic_cases s with ⟨hnone, -⟩ | ⟨b, u, hb, rfl, hrun⟩
  · cases hact.symm.trans hnone
  cases hact.symm.trans hb
  rcases hrun with ⟨hunder, -⟩ | ⟨-, hflight, -⟩ | ⟨-, -, e⟩
  · cases hnounder.symm.trans hunder
  · cases hbusy.symm.trans ((enterIdle_xferBusy (acknowledge s) a).symm.trans hflight)
  · exact e

/-- The registers of the active stream after an upload that the consumption logic runs (R143). -/
theorem ctx_upload_of_active {s : State} {a : CtxNum} (ha : a.toNat < s.nctx) :
    (uploadChunk (enterIdle (acknowledge s) a) a).ctx a = uploaded (idled (s.ctx a)) := by
  have hau : a.toNat < (enterIdle (acknowledge s) a).nctx := (nctx_enterIdle (acknowledge s) a).symm ▸ ha
  rw [ctx_uploadChunk hau, ctx_enterIdle (s := acknowledge s) ha, ctx_acknowledge]

/-- The entry of the logic leaves no trace on a context whose chunk is taken, as the phase is written again (R143). -/
theorem uploaded_idled (k : Context) : uploaded (idled k) = uploaded k := rfl

/-- Taking a chunk writes six registers besides the phase (R112, R135, R136, R138, R144). -/
theorem uploaded_eq (k : Context) :
    uploaded k = { k with
      tail := (consume k).tail, length := (consume k).length, dbidx := k.dbidx ^^^ 1, buffering := true
      chunkcnt := k.chunkcnt + 1, phase := .uploading
      cbissued := k.cbissued || decide (k.length.toNat - k.chunk.toNat ≤ k.thresh.toNat) } := by
  have hcount : trunc32 (k.chunkcnt.toNat + 1) = k.chunkcnt + 1 :=
    BitVec.eq_of_toNat_eq ((trunc32_toNat _).trans (BitVec.toNat_add k.chunkcnt 1).symm)
  simp only [uploaded, hcount, consume_length_toNat]
  rfl

/-- A run of the consumption logic touches the active stream alone (R131). -/
theorem sameOtherContexts_consumptionLogic {s t : State} {started : Bool} {a : CtxNum} (hact : s.active = some a)
    (hrun : consumptionLogic s = .ran t started) : SameOtherContexts s t a :=
  ActsOn.sameOtherContexts (hact ▸ actsOn_consumptionLogic hrun)

/-- A run of the consumption logic that changes no RAM of the active stream changes no byte, since it never writes
another context or device memory (R131). -/
theorem sameMemory_consumptionLogic {s t : State} {started : Bool} {a : CtxNum} (hact : s.active = some a)
    (hrun : consumptionLogic s = .ran t started) (hbuf : (t.ctx a).buf = (s.ctx a).buf) : SameMemory s t := by
  obtain ⟨hframe, -⟩ := consumptionLogic_frame (.inl ⟨started, hrun⟩)
  have hdev : t.devmem = s.devmem := by rw [hframe]
  refine ⟨fun d off => congrArg (Memory.read · off) ?_, fun addr => congrArg (Memory.read · addr) hdev⟩
  by_cases hd : d = a
  · rw [hd]; exact hbuf
  · rw [sameOtherContexts_consumptionLogic hact hrun d hd]

/-- Settles O34: the run is an upload of the active stream, which is left `uploaded`. -/
theorem consumptionTakesOneChunk : Obligations.ConsumptionTakesOneChunk := by
  intro s a hact ha halloc hring havail hbusy
  have hrun := consumptionLogic_of_available hact ha havail hbusy
  have hctx := (ctx_upload_of_active ha).trans (uploaded_idled (s.ctx a))
  obtain ⟨-, -, htail, -⟩ := hring halloc
  refine ⟨_, hrun, sameOtherContexts_consumptionLogic hact hrun, sameMemory_consumptionLogic hact hrun ?_,
    (sameParameters_consumptionLogic hrun).2, ?_⟩
  · rw [hctx]; rfl
  · rw [hctx]
    refine ⟨uploaded_eq _, (consume_tail_toNat _).trans (mod_capacity_mod _ (Nat.zero_lt_of_lt htail)), ?_,
      ringOk_uploaded hring havail⟩
    exact (congrArg (· + _) (consume_length_toNat _)).trans (Nat.sub_add_cancel havail)

end Sys2Proof.Machine
end

section
/-! The scheduler (41_scheduler.md): what a run of the consumption logic is in each of its cases, the words it emits
(R134, R136 to R139, R143, R145), and the turns and commands that run it (R140 to R142, R166 to R168). -/

namespace Sys2Proof.Machine

/-! ### The words of a list of output instructions -/

theorem wordsOf_append (l m : List Instr) : wordsOf (l ++ m) = wordsOf l ++ wordsOf m := List.filterMap_append

/-- The words of a per-channel list are those of its entries, channel by channel (R12). -/
theorem wordsOf_eachChannel (s : State) (c : CtxNum) (f : Nat → BitVec 8 → List Instr) :
    wordsOf (eachChannel s c f) = perChannel (fun i ch => wordsOf (f i ch)) (chansOf s.config (s.ctx c)) :=
  List.filterMap_flatMap

/-- A half starts at its slice of index 0 (R66). -/
theorem halfAddr_eq_sliceAddr (k : Context) (h : BitVec 1) : halfAddr k h = sliceAddr k h.toNat 0 := by
  simp [halfAddr, sliceAddr]

/-- Cutting the half's address to 32 bits before the slice is added changes nothing (R66). -/
theorem chanAddr_eq_sliceAddr (k : Context) (h : BitVec 1) (i : Nat) : chanAddr k h i = sliceAddr k h.toNat i := by
  refine BitVec.eq_of_toNat_eq ?_
  simp only [chanAddr, halfAddr, sliceAddr, trunc32_toNat, Nat.mod_add_mod]

/-- What `StartTail` emits before its run of the logic is the list of R168. -/
theorem startWords_eq_wordsOf (s : State) (c : CtxNum) : startWords s c = wordsOf (startList s c) := by
  rw [startList, wordsOf_eachChannel]
  simp only [startWords, chanAddr_eq_sliceAddr]
  rfl

/-! ### The entry of the logic -/

/-- Step 1 and the entry of the logic write the interrupt bits and the phase of the active stream (R132, R143). -/
theorem enterIdle_acknowledge_frame (s : State) (a : CtxNum) :
    enterIdle (acknowledge s) a =
      { s with ctxs := (enterIdle (acknowledge s) a).ctxs, consEn := false, consPend := false } := by
  rcases enterIdle_cases (acknowledge s) a with e | ⟨-, e⟩ <;> rw [e] <;> rfl

theorem ctx_entry {s : State} {a : CtxNum} (ha : a.toNat < s.nctx) :
    (enterIdle (acknowledge s) a).ctx a = idled (s.ctx a) := ctx_enterIdle (s := acknowledge s) ha

theorem underrunDue_entry {s : State} {a : CtxNum} (ha : a.toNat < s.nctx) :
    underrunDue ((enterIdle (acknowledge s) a).ctx a) = underrunDue (s.ctx a) := by
  rw [ctx_entry ha]; rfl

/-- With less than a chunk buffered, the consumption logic takes the underrun branch (R133, R134). -/
theorem consumptionLogic_of_underrun {s : State} {a : CtxNum} (hact : s.active = some a) (ha : a.toNat < s.nctx)
    (hunder : (s.ctx a).length.toNat < (s.ctx a).chunk.toNat) :
    consumptionLogic s = .ran (underrunBranch (enterIdle (acknowledge s) a) a) false := by
  have hdue := (underrunDue_entry ha).trans (decide_eq_true hunder)
  simp only [consumptionLogic, hact, hdue, if_true]

/-- With a chunk buffered and a transfer in flight, the logic stops the model at its entry (R139). -/
theorem consumptionLogic_of_overlap {s : State} {a : CtxNum} (hact : s.active = some a) (ha : a.toNat < s.nctx)
    (havail : (s.ctx a).chunk.toNat ≤ (s.ctx a).length.toNat) (hbusy : s.xferBusy = true) :
    consumptionLogic s = .overlap (enterIdle (acknowledge s) a) := by
  have hdue := (underrunDue_entry ha).trans (decide_eq_false havail.not_gt)
  simp [consumptionLogic, hact, hdue, hbusy]

/-! ### The underrun branch -/

theorem underrunBranch_eq (s : State) (a : CtxNum) :
    underrunBranch s a = { s with consEn := true, trace := s.trace ++ wordsOf (underrunList s a) } := by
  unfold underrunBranch underrunList
  split
  · simp [wordsOf]
  · rfl

/-- The callback's handle is not written at the entry of the logic (R134). -/
theorem underrunList_entry {s : State} {a : CtxNum} (ha : a.toNat < s.nctx) :
    underrunList (enterIdle (acknowledge s) a) a = underrunList s a := by
  rw [underrunList, ctx_entry ha]; rfl

/-- Settles O33: the run is the underrun branch from the entry of the logic. -/
theorem underrunReenablesTheInterrupt : Obligations.UnderrunReenablesTheInterrupt := by
  intro s a hact ha hunder
  have hrun := consumptionLogic_of_underrun hact ha hunder
  have hctx : (underrunBranch (enterIdle (acknowledge s) a) a).ctx a = idled (s.ctx a) :=
    (ctx_of_ctxs (underrunBranch_ctxs _ a) a).trans (ctx_entry ha)
  refine ⟨_, hrun, ?_, (sameParameters_consumptionLogic hrun).2, sameOtherContexts_consumptionLogic hact hrun, hctx,
    sameMemory_consumptionLogic hact hrun (hctx ▸ rfl)⟩
  rw [underrunBranch_eq, underrunList_entry ha, enterIdle_acknowledge_frame]

/-! ### Taking a chunk -/

/-- The refill callback, if the comparator asks for it and it is registered (R136). -/
def refillList (s : State) (a : CtxNum) : List Instr :=
  if refillDue (s.ctx a) = true ∧ (s.ctx a).cbRefill ≠ 0 then [.cbRefill a (s.ctx a).cbRefill] else []

/-- The comparator emits its callback and writes its context besides (R136). -/
theorem requestRefill_frame (s : State) (a : CtxNum) :
    requestRefill s a =
      { s with ctxs := (requestRefill s a).ctxs, trace := s.trace ++ wordsOf (refillList s a) } := by
  unfold requestRefill refillList
  by_cases hdue : refillDue (s.ctx a) = true
  · by_cases hreg : (s.ctx a).cbRefill = 0
    · simp [hdue, hreg, wordsOf, State.setCtx]
    · simp only [hdue, hreg, if_true, if_false, ne_eq, not_false_eq_true, and_self]
      rfl
  · simp [hdue, wordsOf]

theorem ctx_takeChunk {s : State} {a : CtxNum} (ha : a.toNat < s.nctx) :
    (takeChunk s a).ctx a = { consume (s.ctx a) with
      dbidx := (s.ctx a).dbidx ^^^ 1
      buffering := true
      chunkcnt := trunc32 ((s.ctx a).chunkcnt.toNat + 1)
      phase := .chunkAvail } := ctx_setCtx_same s a _ ha

/-- The state after step 4, from whose registers the hardware is programmed (R137). -/
def refilled (s : State) (a : CtxNum) : State := requestRefill (takeChunk s a) a

/-- Steps 3 and 4 write the context, and emit the refill callback at most (R135, R136). -/
theorem refilled_frame (s : State) (a : CtxNum) :
    refilled s a =
      { s with ctxs := (refilled s a).ctxs, trace := s.trace ++ wordsOf (refillList (takeChunk s a) a) } :=
  requestRefill_frame (takeChunk s a) a

/-- Steps 3 and 4 leave the registers that the upload leaves, but for the phase (R135, R136). -/
theorem ctx_refilled {s : State} {a : CtxNum} (ha : a.toNat < s.nctx) :
    (refilled s a).ctx a = { uploaded (s.ctx a) with phase := .chunkAvail } := by
  have htaken : a.toNat < (takeChunk s a).nctx := (nctx_setCtx s a _).symm ▸ ha
  have hset : (refilled s a).ctx a = ((takeChunk s a).setCtx a _).ctx a := ctx_of_ctxs (requestRefill_ctxs _ a) a
  rw [hset, ctx_setCtx_same _ a _ htaken, ctx_takeChunk ha]
  rfl

/-- The comparator looks at the level after the chunk is taken (R136). -/
theorem refillList_takeChunk {s : State} {a : CtxNum} (ha : a.toNat < s.nctx) :
    refillList (takeChunk s a) a =
      if (s.ctx a).length.toNat - (s.ctx a).chunk.toNat ≤ (s.ctx a).thresh.toNat ∧ (s.ctx a).cbissued = false ∧
        (s.ctx a).cbRefill ≠ 0 then [.cbRefill a (s.ctx a).cbRefill] else [] := by
  have hlen := consume_length_toNat (s.ctx a)
  simp only [refillList, ctx_takeChunk ha, refillDue, hlen, Bool.and_eq_true, decide_eq_true_eq, Bool.not_eq_true',
    and_assoc]
  rfl

/-- The words of steps 4 to 6, with the addresses as the logic computes them (R145). -/
theorem wordsOf_uploadList {s : State} {a : CtxNum} (ha : a.toNat < s.nctx) :
    wordsOf (uploadList s a) =
      wordsOf (refillList (takeChunk s a) a) ++
      (setIrqAddrWord (halfAddr (s.ctx a) ((s.ctx a).dbidx ^^^ 1)) ::
        perChannel (fun i ch => [setLoopWord ch (chanAddr (s.ctx a) ((s.ctx a).dbidx ^^^ 1) i)])
          (chansOf s.config (s.ctx a))) ++
      [xferStartWord a (halfAddr (s.ctx a) ((s.ctx a).dbidx ^^^ 1)) (s.ctx a).tail (s.ctx a).chunk] := by
  simp only [uploadList, wordsOf_append, wordsOf_eachChannel, chanAddr_eq_sliceAddr, halfAddr_eq_sliceAddr,
    refillList_takeChunk ha, List.append_assoc]
  rfl

/-- Steps 5 and 6 append to the trace what the registers after step 4 say (R137, R138). -/
theorem uploadChunk_trace_refilled (s : State) (a : CtxNum) :
    (uploadChunk s a).trace = (refilled s a).trace ++
      (setIrqAddrWord (halfAddr ((refilled s a).ctx a) ((refilled s a).ctx a).dbidx) ::
        perChannel (fun i ch => [setLoopWord ch (chanAddr ((refilled s a).ctx a) ((refilled s a).ctx a).dbidx i)])
          (chansOf (refilled s a).config ((refilled s a).ctx a))) ++
      [xferStartWord a (halfAddr ((refilled s a).ctx a) ((refilled s a).ctx a).dbidx) (s.ctx a).tail
        ((refilled s a).ctx a).chunk] := rfl

/-- An upload emits the words of R145 in order: of the registers that steps 5 and 6 make them from, steps 3 and 4 write
`DBIDX` alone. -/
theorem uploadChunk_trace {s : State} {a : CtxNum} (ha : a.toNat < s.nctx) :
    (uploadChunk s a).trace = s.trace ++ wordsOf (uploadList s a) := by
  rw [uploadChunk_trace_refilled, ctx_refilled ha, refilled_frame, wordsOf_uploadList ha]
  simp only [List.append_assoc]
  rfl

theorem uploadChunk_consEn (s : State) (a : CtxNum) : (uploadChunk s a).consEn = s.consEn := by
  change (refilled s a).consEn = s.consEn
  rw [refilled_frame]

/-- The phase the entry of the logic writes is in no word (R145). -/
theorem uploadList_entry {s : State} {a : CtxNum} (ha : a.toNat < s.nctx) :
    uploadList (enterIdle (acknowledge s) a) a = uploadList s a := by
  have hconfig : (enterIdle (acknowledge s) a).config = s.config := by rw [enterIdle_acknowledge_frame]
  simp only [uploadList, eachChannel, ctx_entry ha, hconfig]
  rfl

/-- Settles O35: the run is an upload from the entry of the logic, which writes no register that the words or the
transfer record take up. -/
theorem consumptionReprogramsAndUploads : Obligations.ConsumptionReprogramsAndUploads := by
  intro s a hact ha havail hbusy
  have hrun := consumptionLogic_of_available hact ha havail hbusy
  refine ⟨_, hrun, ?_⟩
  obtain ⟨hframe, -⟩ := consumptionLogic_frame (.inl ⟨true, hrun⟩)
  generalize hu : enterIdle (acknowledge s) a = u at hframe ⊢
  have hentry : u = _ := hu ▸ enterIdle_acknowledge_frame s a
  have hau : a.toNat < u.nctx := hu ▸ (nctx_enterIdle (acknowledge s) a).symm ▸ ha
  have hctx : u.ctx a = idled (s.ctx a) := hu ▸ ctx_entry ha
  have hen : (uploadChunk u a).consEn = false := by rw [uploadChunk_consEn, hentry]
  have htrace : (uploadChunk u a).trace = s.trace ++ wordsOf (uploadList s a) := by
    rw [uploadChunk_trace hau, ← uploadList_entry ha, hu, hentry]
  obtain ⟨hdst, hlen⟩ := uploadChunk_record hau
  have hsnap := uploadChunk_xferSnap u a
  have hsrc : (uploadChunk u a).xferSrc = (u.ctx a).tail := rfl
  rw [hctx] at hdst hlen hsnap hsrc
  rw [halfAddr_eq_sliceAddr] at hdst
  refine hframe.trans ?_
  rw [hen, htrace, hdst, hlen, hsnap, hsrc]
  rfl

/-! ### DISPATCH_CONS and EV_CONS_EDGE -/

theorem dispatchXferEnabled_iff (s : State) : dispatchXferEnabled s = true ↔ XferEnabled s := by
  simp [dispatchXferEnabled, XferEnabled, hXfer, and_assoc]

theorem dispatchConsEnabled_iff (s : State) : dispatchConsEnabled s = true ↔ ConsEnabled s := by
  simp [dispatchConsEnabled, ConsEnabled, hCons, ← dispatchXferEnabled_iff, and_assoc]

theorem dispatchCons_of_ran {s t : State} {started : Bool} (hen : ConsEnabled s)
    (hrun : consumptionLogic s = .ran t started) : dispatchCons s = .next t := by
  rw [dispatchCons, if_pos ((dispatchConsEnabled_iff s).mpr hen), hrun]

theorem dispatchCons_of_overlap {s t : State} (hen : ConsEnabled s) (hrun : consumptionLogic s = .overlap t) :
    dispatchCons s = .fault (.xferOverlap t) := by
  rw [dispatchCons, if_pos ((dispatchConsEnabled_iff s).mpr hen), hrun]

theorem dispatchCons_of_disabled {s : State} (hdis : ¬ ConsEnabled s) : dispatchCons s = .next s :=
  if_neg (mt (dispatchConsEnabled_iff s).mp hdis)

/-- With no stream active the logic only acknowledges (R140). -/
theorem consumptionLogic_of_inactive {s : State} (hact : s.active = none) :
    consumptionLogic s = .ran (acknowledge s) false := by
  simp only [consumptionLogic, hact]

/-- Settles O37: the turn is taken first, which neither the enabling conditions nor the logic look at. -/
theorem dispatchConsRunsTheConsumptionLogic : Obligations.DispatchConsRunsTheConsumptionLogic := by
  intro s rest hturn
  rw [step_dispatchCons s rest hturn]
  refine ⟨fun hen t started hrun => ?_, fun hen hnone => ?_, fun hdis => ?_⟩
  · exact dispatchCons_of_ran hen hrun
  · exact dispatchCons_of_ran hen (consumptionLogic_of_inactive hnone)
  · exact dispatchCons_of_disabled hdis

/-- Settles O32: an edge is latched where the interrupt is enabled, and lost otherwise. -/
theorem edgesLatchOnlyWhileEnabled : Obligations.EdgesLatchOnlyWhileEnabled := by
  intro s
  rcases Bool.eq_false_or_eq_true s.consEn with hen | hen
  · have latched : (s.consPend || s.consEn) = true := by rw [hen, Bool.or_true]
    rw [latched]
    exact exec_evConsEdge_of_enabled hen
  · have lost : (s.consPend || s.consEn) = s.consPend := by rw [hen, Bool.or_false]
    rw [lost]
    exact exec_evConsEdge_of_disabled hen

/-! ### The transfer overlap -/

/-- `START` past its checks (R100, R160). -/
theorem exec_start_run {s : State} {c : CtxNum} (hready : RingReady s c) (resume : Bool) :
    exec (.start c resume) s = startBody c resume s := by
  obtain ⟨⟨hfatal, hctx⟩, halloc⟩ := hready
  exact checked_run s _ _ (fun _ => hfatal) (decide_eq_true hctx) rfl halloc rfl

/-- `StartTail` stops where its run of the logic, after the words of R168, stops (R139). -/
theorem startTail_of_overlap {s t : State} {c : CtxNum}
    (hrun : consumptionLogic { s with trace := s.trace ++ wordsOf (startList s c) } = .overlap t) :
    startTail s c = .fault (.xferOverlap t) := by
  rw [← startWords_eq_wordsOf] at hrun
  unfold startTail State.emitAll
  rw [hrun]

/-- The resumed `START` of a stream is its `StartTail` (R166). -/
theorem startBody_resume {s : State} {c : CtxNum} (hnone : s.active = none) :
    startBody c true s = startTail (bind s c) c := by
  simp [startBody, hnone]

/-- The priming run of `START` stops the model where it overlaps (R139, R166). -/
theorem startBody_of_overlap {s t : State} {c : CtxNum} (hnone : s.active = none)
    (hrun : consumptionLogic (bind s c) = .overlap t) : startBody c false s = .fault (.xferOverlap t) := by
  simp [startBody, hnone, hrun]

theorem startPhase2_of_enabled {s : State} {a : CtxNum} (hact : s.active = some a) (hwait : s.primeWait = true)
    (hfatal : s.fatal = 0) (hlanded : (s.ctx a).buffering = false) :
    startPhase2 s = startTail { s with primeWait := false } a := by
  simp [startPhase2, startPhase2Context, hact, hwait, hfatal, hlanded]

/-- Settles O36: the logic stops at its entry from every state with a chunk buffered and a transfer in flight, and each
way to it runs the logic from such a state. -/
theorem transferOverlapStops : Obligations.TransferOverlapStops := by
  intro s a ha havail hbusy
  refine ⟨fun hact => ?_, fun hact hen rest hturn => ?_, fun hnone hready => ⟨?_, ?_⟩,
    fun hact hwait hfatal hlanded rest hturn => ?_⟩
  · exact ⟨_, consumptionLogic_of_overlap hact ha havail hbusy, enterIdle_acknowledge_frame s a,
      (actsOn_enterIdle (acknowledge s) a).sameOtherContexts, ctx_entry ha⟩
  · have hrun := consumptionLogic_of_overlap (s := { s with turns := rest }) hact ha havail hbusy
    exact ⟨_, hrun, (step_dispatchCons s rest hturn).trans (dispatchCons_of_overlap hen hrun)⟩
  · have hrun := consumptionLogic_of_overlap (s := bind s a) rfl ha havail hbusy
    exact ⟨_, hrun, (exec_start_run hready false).trans (startBody_of_overlap hnone hrun)⟩
  · have hrun := consumptionLogic_of_overlap
      (s := { s with active := some a, trace := s.trace ++ wordsOf (startList s a) }) rfl ha havail hbusy
    exact ⟨_, hrun, (exec_start_run hready true).trans <| (startBody_resume hnone).trans <|
      startTail_of_overlap (s := bind s a) hrun⟩
  · have hrun := consumptionLogic_of_overlap
      (s := { s with turns := rest, primeWait := false, trace := s.trace ++ wordsOf (startList s a) })
      hact ha havail hbusy
    exact ⟨_, hrun, (step_startPhase2 s rest hturn).trans <|
      (startPhase2_of_enabled (s := { s with turns := rest }) hact hwait hfatal hlanded).trans <|
      startTail_of_overlap (s := { s with turns := rest, primeWait := false }) hrun⟩

end Sys2Proof.Machine
end

section
/-! The completion of a transfer (42_completion.md): what `EV_XFER_DONE` lands (R67, R150), what taking the completion
interrupt changes and that it goes before consumption (R151, R153, R154), and the handshake that holds until then (R152). -/

namespace Sys2Proof.Machine

/-! ### EV_XFER_DONE -/

/-- Settles O40: the bytes land at addresses of their own, and every other address keeps what it held. -/
theorem xferDoneLandsTheTransfer : Obligations.XferDoneLandsTheTransfer := by
  intro s hbusy
  refine ⟨_, execEvXferDone_of_busy hbusy, rfl, fun i hi => ?_, fun a hother => ?_, fun _ _ => rfl⟩
  · exact landBytes_read_landAddr s.xferLen.isLt.le hi
  · exact landBytes_read_of_none s _ a hother

/-! ### DISPATCH_XFER -/

theorem dispatchXfer_of_enabled {s : State} (hen : XferEnabled s) : dispatchXfer s = .next (completionHandler s) := by
  rw [dispatchXfer, if_pos ((dispatchXferEnabled_iff s).mpr hen)]

theorem dispatchXfer_of_disabled {s : State} (hdis : ¬ XferEnabled s) : dispatchXfer s = .next s := by
  rw [dispatchXfer, if_neg (mt (dispatchXferEnabled_iff s).mp hdis)]

theorem completionHandler_of_inactive {s : State} (hact : s.active = none) :
    completionHandler s = { s with xferPend := false, consEn := true } := by
  simp only [completionHandler, hact]

theorem completionHandler_of_active {s : State} {a : CtxNum} (hact : s.active = some a) :
    completionHandler s = { s with xferPend := false, consEn := true }.setCtx a (chunkLanded (s.ctx a)) := by
  simp only [completionHandler, hact]

/-- The handler writes the contexts and two bits of the arbiter (R151). -/
theorem completionHandler_frame (s : State) :
    completionHandler s = { s with ctxs := (completionHandler s).ctxs, xferPend := false, consEn := true } := by
  rcases Option.eq_none_or_eq_some s.active with hact | ⟨a, hact⟩
  · rw [completionHandler_of_inactive hact]
  · rw [completionHandler_of_active hact]; rfl

/-- The handler writes no byte: of a context it writes the flag and the phase (R151). -/
theorem sameMemory_completionHandler (s : State) : SameMemory s (completionHandler s) := by
  cases hact : s.active with
  | none => rw [completionHandler_of_inactive hact]; exact ⟨fun _ _ => rfl, fun _ => rfl⟩
  | some a =>
    rw [completionHandler_of_active hact]
    exact sameMemory_setCtx (s := { s with xferPend := false, consEn := true }) (k := chunkLanded (s.ctx a)) rfl

/-- Settles O43: the turn is taken first, and the handler acts on the stream active then, if any (R153). -/
theorem dispatchXferCompletesTheHandshake : Obligations.DispatchXferCompletesTheHandshake := by
  intro s rest hturn
  rw [step_dispatchXfer s rest hturn]
  let u : State := { s with turns := rest }
  refine ⟨fun hen => ⟨completionHandler u, dispatchXfer_of_enabled (s := u) hen, completionHandler_frame u,
    (sameParameters_completionHandler u).2, sameMemory_completionHandler u, fun hnone => ?_, fun a hact ha => ?_⟩,
    fun hdis => dispatchXfer_of_disabled (s := u) hdis⟩
  · rw [completionHandler_of_inactive (s := u) hnone]
  · rw [completionHandler_of_active (s := u) hact]
    exact ⟨sameOtherContexts_setCtx { u with xferPend := false, consEn := true } a _,
      ctx_setCtx_same { u with xferPend := false, consEn := true } a _ ha⟩

/-- Once the completion is taken its request is gone, so a consumption that was pending is enabled (R142, R199). -/
theorem consEnabled_completionHandler {s : State} (hfatal : s.fatal = 0) (hpend : s.consPend = true)
    (hvec : s.vecCons = 1) : ConsEnabled (completionHandler s) := by
  rw [completionHandler_frame]
  exact ⟨hpend, rfl, hvec, hfatal, fun ⟨hxfer, _⟩ => Bool.false_ne_true hxfer⟩

/-- Settles O44: a completion due disables the consumption dispatch, until the handler has cleared its request. -/
theorem completionIsTakenFirst : Obligations.CompletionIsTakenFirst := by
  intro s rest hen hpend _ hvec
  let u : State := { s with turns := rest }
  refine ⟨fun hturn => ?_, fun hturn => ⟨completionHandler u, ?_, ?_, ?_⟩⟩
  · have hdis : ¬ ConsEnabled u := fun ⟨_, _, _, _, hnot⟩ => hnot hen
    exact (step_dispatchCons s rest hturn).trans (dispatchCons_of_disabled hdis)
  · exact (step_dispatchXfer s rest hturn).trans (dispatchXfer_of_enabled (s := u) hen)
  · rw [completionHandler_frame]
  · obtain ⟨-, -, hfatal⟩ := hen
    exact consEnabled_completionHandler (s := u) hfatal hpend hvec

/-! ### The handshake -/

/-- What the rule of the handshake speaks of: the bits of the consumption interrupt, and the turns and words to come. -/
def handshake (s : State) : Bool × Bool × List Turn × List CommandWord := (s.consEn, s.consPend, s.turns, s.cmdPort)

/-- A checked command keeps it where its own outcome does, since a refusal answers only. -/
theorem handshake_checked {s t : State} {k : Checks} {run : Result} (h : checked s k run = .next t)
    (hrun : run = .next t → handshake t = handshake s) : handshake t = handshake s := by
  rcases checked_cases h with ⟨st, v, e⟩ | ⟨e, -⟩
  · cases e; rfl
  · exact hrun e.symm

theorem handshake_execInit {s t : State} {c : CtxNum} (h : execInit c s = .next t) : handshake t = handshake s := by
  refine handshake_checked h fun hrun => ?_
  split at hrun
  · cases hrun; rfl
  split at hrun
  · cases hrun; rfl
  split at hrun
  · cases hrun; rfl
  · cases hrun
    rw [createContext, loseSource_eq]
    rfl

/-- While the consumption interrupt is disabled, no instruction but `START` enables it, and an edge is lost (R141,
R198). -/
theorem handshake_exec {i : Instr} {s t : State} (hstart : ∀ c resume, i ≠ .start c resume) (hdis : s.consEn = false)
    (h : exec i s = .next t) : handshake t = handshake s := by
  cases i with
  | start c resume => exact absurd rfl (hstart c resume)
  | evConsEdge =>
    cases (exec_evConsEdge_of_disabled hdis).symm.trans h
    rfl
  | evXferDone =>
    cases h
    split <;> rfl
  | init c => exact handshake_execInit h
  | destroy c =>
    refine handshake_checked h fun hrun => ?_
    cases hrun
    rw [destroyContext, loseSource_eq]
    rfl
  | wrbuf c byte offset =>
    refine handshake_checked h fun hrun => ?_
    cases hrun
    rw [memWrite_frame]
    rfl
  | rdbuf c offset =>
    refine handshake_checked h fun hrun => ?_
    cases hrun
    rcases memRead_cases s c offset.toNat with ⟨v, -, e⟩ | ⟨-, e⟩ <;> rw [e] <;> rfl
  | rdreg c reg =>
    simp only [exec, execRdreg] at h
    split at h <;> exact handshake_checked h fun hrun => by cases hrun; rfl
  | stop =>
    refine handshake_checked h fun hrun => ?_
    split at hrun <;> cases hrun <;> rfl
  | wrcfg | setrate | isactive | reflen | feedptr | feed =>
    exact handshake_checked h fun hrun => by cases hrun; rfl
  | setLoop | setIrqAddr | xferStart | keyOn | keyOff | setPitch | setEnv | setStart | cbRefill | cbUnderrun =>
    cases h; rfl

/-- The consumption interrupt has disabled itself, and neither a turn nor a word to come takes the completion interrupt,
starts a stream or resets (R152). -/
structure AwaitsCompletion (s : State) : Prop where
  disabled : s.consEn = false
  clear : s.consPend = false
  turns : ∀ u ∈ s.turns, u ≠ .dispatchXfer ∧ u ≠ .startPhase2 ∧ u ≠ .reset
  words : ∀ w ∈ s.cmdPort, ∀ c resume, decode (.command w) ≠ .ok (.start c resume)

namespace AwaitsCompletion

theorem congr {s t : State} (hs : AwaitsCompletion s) (h : handshake t = handshake s) : AwaitsCompletion t := by
  simp only [handshake, Prod.mk.injEq] at h
  obtain ⟨hen, hpend, hturns, hwords⟩ := h
  exact ⟨hen ▸ hs.disabled, hpend ▸ hs.clear, hturns ▸ hs.turns, hwords ▸ hs.words⟩

/-- Turns and words taken, or an edge left for the next turn, bring no completion. -/
theorem queues {s : State} {ts : List Turn} {ws : List CommandWord} (hs : AwaitsCompletion s)
    (hts : ∀ u ∈ ts, u ∈ s.turns ∨ u = .edges 0b10) (hws : ∀ w ∈ ws, w ∈ s.cmdPort) :
    AwaitsCompletion { s with turns := ts, cmdPort := ws } where
  disabled := hs.disabled
  clear := hs.clear
  turns u hu := by
    rcases hts u hu with hold | rfl
    · exact hs.turns u hold
    · exact ⟨nofun, nofun, nofun⟩
  words w hw := hs.words w (hws w hw)

theorem tail {s : State} (hs : AwaitsCompletion s) : AwaitsCompletion { s with turns := s.turns.tail } :=
  hs.queues (fun _ hu => .inl (List.mem_of_mem_tail hu)) fun _ hw => hw

theorem of_nextTurn {s : State} {u : Turn} (hs : AwaitsCompletion s) (h : s.nextTurn = some u) :
    u ≠ .dispatchXfer ∧ u ≠ .startPhase2 ∧ u ≠ .reset := hs.turns u (List.mem_of_mem_head? h)

theorem not_accepts_start {s : State} (hs : AwaitsCompletion s) (c : CtxNum) (resume : Bool) :
    ¬ Accepts s (.start c resume) := by
  rintro ⟨-, -, w, ws, hport, hdec⟩
  exact hs.words w (hport ▸ List.mem_cons_self) c resume hdec

/-- The dispatch needs a request and the interrupt enabled, and has neither (R142). -/
theorem not_consEnabled {s : State} (hs : AwaitsCompletion s) : ¬ ConsEnabled s :=
  fun ⟨hpend, _⟩ => Bool.false_ne_true (hs.clear.symm.trans hpend)

/-- Every step goes on waiting: what could enable the interrupt has no turn, an edge is lost, and `DISPATCH_CONS` is not
enabled. -/
theorem of_step {s t : State} (hs : AwaitsCompletion s) (hstep : step s = .next t) : AwaitsCompletion t := by
  rcases step_next_cases hstep with ⟨ts, rfl, hts⟩ | ⟨rfl, -⟩ | ⟨i, ts, ws, hrun, hts, hws, hport⟩ | ⟨hnext, -⟩ |
    ⟨-, hrun⟩ | ⟨hnext, -⟩ | ⟨hnext, -⟩ | ⟨ok, -, rfl⟩
  · exact hs.queues (fun u hu => .inl (hts u hu)) fun _ hw => hw
  · have taken := hs.queues (fun _ hu => .inl (List.mem_of_mem_tail hu)) fun _ hw => List.mem_of_mem_tail hw
    exact taken.congr rfl
  · have hstart : ∀ c resume, i ≠ .start c resume := by
      rintro c resume rfl
      rcases hport with ⟨haccepts, -⟩ | ⟨hevent, -⟩ | ⟨houtput, -⟩
      · exact hs.not_accepts_start c resume haccepts
      · cases hevent
      · cases houtput
    exact (hs.queues hts hws).congr (handshake_exec hstart hs.disabled hrun)
  · obtain ⟨hxfer, -, -⟩ := hs.of_nextTurn hnext
    exact absurd rfl hxfer
  · cases (dispatchCons_of_disabled hs.tail.not_consEnabled).symm.trans hrun
    exact hs.tail
  · obtain ⟨-, hstart, -⟩ := hs.of_nextTurn hnext
    exact absurd rfl hstart
  · obtain ⟨-, -, hreset⟩ := hs.of_nextTurn hnext
    exact absurd rfl hreset
  · exact hs.tail.congr rfl

end AwaitsCompletion

/-- What every step keeps, every run keeps. -/
theorem runSteps_induction {P : State → Prop} (hkept : ∀ s t, P s → step s = .next t → P t) (n : Nat) {s t : State}
    (hs : P s) (hrun : runSteps n s = .next t) : P t := by
  induction n generalizing s with
  | zero => cases hrun; exact hs
  | succ n ih =>
    unfold runSteps at hrun
    split at hrun
    · next u hstep => exact ih (hkept s u hs hstep) hrun
    · cases hrun
    · cases hrun

/-- Settles O39, by induction on the run: every step goes on waiting for the completion. -/
theorem handshakeHoldsUntilCompletion : Obligations.HandshakeHoldsUntilCompletion := by
  intro n s t hen hpend hturns hwords hrun
  have waiting : AwaitsCompletion t :=
    runSteps_induction (fun _ _ => AwaitsCompletion.of_step) n ⟨hen, hpend, hturns, hwords⟩ hrun
  exact ⟨waiting.disabled, waiting.clear, waiting.not_consEnabled⟩

end Sys2Proof.Machine
end

section
/-! The control commands (43_control.md): the configuration and register commands (R161, R162), the lifecycle of a
context (R163 to R165), starting and stopping a stream (R166 to R169, R173), and the rate and the query (R170, R171). -/

namespace Sys2Proof.Machine

/-! ### WRCFG -/

/-- `WRCFG` writes the register its number names, where that is a configuration register (R27, R161). -/
theorem writeCfg_eq (cfg : Config) (k : Context) (reg : BitVec 8) (v : Word) :
    writeCfg cfg k reg v = { k with
      chmask := if regOf reg = some .chmask then v &&& channelBits cfg else k.chmask
      interleave := if regOf reg = some .interleave then v else k.interleave
      rate := if regOf reg = some .rate then v else k.rate
      devbase := if regOf reg = some .devbase then v else k.devbase
      capacity := if regOf reg = some .capacity then v else k.capacity
      thresh := if regOf reg = some .thresh then v else k.thresh
      cbRefill := if regOf reg = some .cbRefill then v else k.cbRefill
      cbUnderrun := if regOf reg = some .cbUnderrun then v else k.cbUnderrun } := by
  unfold writeCfg
  split
  case h_9 => simp_all
  all_goals next hname => simp [hname]

/-- The registers that `WRCFG` may name (R48, R161). -/
def configRegs : List Reg :=
  [.chmask, .interleave, .rate, .devbase, .capacity, .thresh, .cbRefill, .cbUnderrun]

/-- The numbers 0x00 to 0x07 name the configuration registers (R48). -/
theorem mem_configRegs_of_regOf : ∀ (reg : BitVec 8) (r : Reg), reg.toNat ≤ 0x07 → regOf reg = some r →
    r ∈ configRegs := by
  have named : ∀ reg : BitVec 8, reg.toNat ≤ 0x07 → ∀ r ∈ regOf reg, r ∈ configRegs := by decide
  exact fun reg r hlow hname => named reg hlow r hname

/-- The number of `CHMASK` is 0 (R48). -/
theorem regOf_eq_chmask_iff : ∀ reg : BitVec 8, regOf reg = some .chmask ↔ reg.toNat = 0 := by decide

/-- The state a completed `WRCFG` leaves (R161). -/
def reconfigured (s : State) (c : CtxNum) (reg : BitVec 8) (v : Word) : State :=
  (s.setCtx c (writeCfg s.config (s.ctx c) reg v)).respond .ok 0 0

section Reconfigured
variable {s : State} {c : CtxNum} {reg : BitVec 8} {v : Word} {r : Reg}

theorem exec_wrcfg_run (hready : Ready s c) (hlow : reg.toNat ≤ 0x07) (hfree : (s.ctx c).alloc = false) :
    exec (.wrcfg c reg v) s = .next (reconfigured s c reg v) := by
  obtain ⟨hfatal, hctx⟩ := hready
  exact checked_run s _ _ (fun _ => hfatal) (decide_eq_true hctx) (decide_eq_true hlow) (by simp [hfree]) rfl

theorem ctx_reconfigured (hctx : c.toNat < s.nctx) :
    (reconfigured s c reg v).ctx c = writeCfg s.config (s.ctx c) reg v := ctx_setCtx_same s c _ hctx

/-- A mask is stored without the channels that do not exist (R27). -/
theorem readReg_reconfigured_chmask (hctx : c.toNat < s.nctx) (hname : regOf reg = some .chmask) (j : Nat) :
    (readReg (reconfigured s c reg v) c .chmask).getLsbD j = (decide (j < s.config.nch) && v.getLsbD j) := by
  have hbits : readReg (reconfigured s c reg v) c .chmask = v &&& channelBits s.config &&& channelBits s.config := by
    simp only [readReg, chmaskOf, ctx_reconfigured hctx, writeCfg_eq, hname, if_true]
    rfl
  have hwidth : v.getLsbD j = true → j < 32 := BitVec.lt_of_getLsbD
  rw [hbits, BitVec.and_assoc, BitVec.and_self, BitVec.getLsbD_and, channelBits, trunc32, BitVec.getLsbD_ofNat,
    Nat.testBit_two_pow_sub_one]
  cases hv : v.getLsbD j
  · simp
  · simp [hwidth hv]

/-- Every other configuration register is stored whole (R161). -/
theorem readReg_reconfigured_same (hctx : c.toNat < s.nctx) (hconfig : r ∈ configRegs) (hname : regOf reg = some r)
    (hmask : r ≠ .chmask) : readReg (reconfigured s c reg v) c r = v := by
  cases r
  case chmask => exact absurd rfl hmask
  case interleave | rate | devbase | capacity | thresh | cbRefill | cbUnderrun =>
    simp only [readReg, ctx_reconfigured hctx, writeCfg_eq, hname, if_true]
  all_goals exact absurd hconfig (by decide)

/-- Every register but the one named reads as before (R161). -/
theorem readReg_reconfigured_other (hctx : c.toNat < s.nctx) (hname : regOf reg ≠ some r) :
    readReg (reconfigured s c reg v) c r = readReg s c r := by
  cases r
  case active | irqstat | fatal | vecCons | vecXfer => rfl
  case chmask =>
    simp only [readReg, chmaskOf, ctx_reconfigured hctx, writeCfg_eq, hname, if_false]
    rfl
  all_goals simp only [readReg, flagsWord, ctx_reconfigured hctx, writeCfg_eq, hname, if_false]

end Reconfigured

/-- Settles O11: the command replaces its context by the rewritten one, in which the named register alone differs. -/
theorem wrcfgWritesOneConfigurationRegister : Obligations.WrcfgWritesOneConfigurationRegister := by
  intro s c reg v hready
  have ⟨hfatal, hctx⟩ := hready
  refine ⟨fun hhigh => ?_, fun hlow halloc => ?_, fun hlow hfree => ?_⟩
  · obtain ⟨-, -, refuses, -⟩ := firstFailingCheckAnswers s (.wrcfg c reg v) rfl
    exact refuses (.inl hfatal) (contextCheck_of_ready hready rfl) hhigh.not_ge
  · exact exec_refuses_state hready rfl rfl hlow (ne_false_of_eq_true halloc)
  · have hbuf : (writeCfg s.config (s.ctx c) reg v).buf = (s.ctx c).buf := writeCfg_buf _ _ _ _
    exact ⟨reconfigured s c reg v, exec_wrcfg_run hready hlow hfree, rfl, nctx_setCtx s c _,
      sameOtherContexts_setCtx s c _, sameMemory_setCtx hbuf,
      fun hzero => readReg_reconfigured_chmask hctx ((regOf_eq_chmask_iff reg).mpr hzero),
      fun r hname => readReg_reconfigured_same hctx (mem_configRegs_of_regOf reg r hlow hname) hname,
      fun r => readReg_reconfigured_other hctx⟩

/-! ### RDREG -/

/-- The registers with their numbers, in the order of the map (R48). -/
def numberedRegs : List (BitVec 8 × Reg) :=
  [(0x00, .chmask), (0x01, .interleave), (0x02, .rate), (0x03, .devbase), (0x04, .capacity), (0x05, .thresh),
   (0x06, .cbRefill), (0x07, .cbUnderrun), (0x10, .head), (0x11, .tail), (0x12, .length), (0x13, .chunk),
   (0x14, .dbidx), (0x15, .flags), (0x16, .chunkcnt), (0x17, .savedVecCons), (0x18, .savedVecXfer),
   (0x20, .active), (0x21, .irqstat), (0x22, .fatal), (0x23, .vecCons), (0x24, .vecXfer)]

theorem regOf_of_mem_numberedRegs : ∀ p ∈ numberedRegs, regOf p.1 = some p.2 := by decide

theorem registerMap_eq (s : State) (c : CtxNum) :
    registerMap s c = numberedRegs.map (fun p => (p.1, readReg s c p.2)) := rfl

/-- `RDREG` of a number that names a register answers its value, halted or not (R100 step 3, R162). -/
theorem exec_rdreg_run {s : State} {c : CtxNum} {n : BitVec 8} {r : Reg} (hctx : c.toNat < s.nctx)
    (hname : regOf n = some r) : exec (.rdreg c n) s = .next (answer s 0x00 (readReg s c r) 0) := by
  change execRdreg c n s = _
  simp only [execRdreg, hname]
  exact checked_run s _ _ nofun (decide_eq_true hctx) rfl rfl rfl

/-- Settles O12: the map lists what each named register reads as, and a number outside it fails the register check. -/
theorem rdregReadsTheRegisterMap : Obligations.RdregReadsTheRegisterMap := by
  refine fun s c hctx => ⟨fun p hp => ?_, fun n hreserved => ?_⟩
  · rw [registerMap_eq] at hp
    obtain ⟨q, hq, rfl⟩ := List.mem_map.mp hp
    exact exec_rdreg_run hctx (regOf_of_mem_numberedRegs q hq)
  · obtain ⟨-, -, refuses, -⟩ := firstFailingCheckAnswers s (.rdreg c n) rfl
    exact refuses (.inr ⟨c, n, rfl⟩) ((contextCheck_of_named rfl).mpr (decide_eq_true hctx)) hreserved

/-! ### INIT -/

section Init
variable {s : State} {c : CtxNum}

/-- `INIT` past its checks takes the steps of R163. -/
theorem exec_init_run (hready : Ready s c) (hfree : (s.ctx c).alloc = false) :
    exec (.init c) s =
      if popcount (chmaskOf s.config (s.ctx c)) = 0 then .next (raiseFatal s causeNoChannel)
      else if 2 ^ 32 ≤ chunkProduct s c then .next (s.respond .errRange 0 0)
      else if !allocSucceeds s c then .next (raiseFatal s causeAllocFail)
      else .next (createContext s c) := by
  obtain ⟨hfatal, hctx⟩ := hready
  exact checked_run s _ _ (fun _ => hfatal) (decide_eq_true hctx) rfl (by simp [hfree]) rfl

/-- The allocation succeeds for a capacity that the RAM has, if the input lets it (R164). -/
theorem allocSucceeds_iff : allocSucceeds s c = true ↔
    1 ≤ (s.ctx c).capacity.toNat ∧ (s.ctx c).capacity.toNat ≤ s.config.maxCap ∧ s.allocOk = true := by
  simp [allocSucceeds, and_assoc]

/-- `INIT` and `DESTROY` of the source of a transfer in flight lose it, and of no other context (R78). -/
theorem loseSource_eq_sourceLost : loseSource s c = { s with xferLost := sourceLost s c } := by
  unfold loseSource sourceLost
  simp only [transferring_iff]
  split <;> rfl

theorem createContext_frame : createContext s c = answer { s with
    ctxs := (createContext s c).ctxs, vecCons := 1, vecXfer := 2, xferLost := sourceLost s c } 0x00 0 0 := by
  unfold createContext
  rw [loseSource_eq_sourceLost]
  rfl

theorem createContext_ctxs : (createContext s c).ctxs = (s.setCtx c (initContext s c)).ctxs := by
  unfold createContext
  rw [loseSource_eq_sourceLost]
  rfl

theorem ctx_createContext (hctx : c.toNat < s.nctx) : (createContext s c).ctx c = initContext s c :=
  (ctx_of_ctxs createContext_ctxs c).trans (ctx_setCtx_same s c _ hctx)

/-- A context whose RAM has been emptied holds no defined value (R52). -/
theorem bufByte_of_empty {t : State} (hempty : (t.ctx c).buf = []) (off : Nat) : t.bufByte c off = none := by
  rw [State.bufByte, hempty, memory_read_nil]

/-- What leaves every context but one leaves their RAMs. -/
theorem SameOtherContexts.bufByte {t : State} (h : SameOtherContexts s t c) {d : CtxNum} (hd : d ≠ c) (off : Nat) :
    t.bufByte d off = s.bufByte d off := congrArg (fun k : Context => k.buf.read off) (h d hd)

end Init

/-- Settles O14: the checks of R163 in order, and then the context that is created. -/
theorem initFollowsItsSteps : Obligations.InitFollowsItsSteps := by
  intro s c hready
  have ⟨_, hctx⟩ := hready
  refine ⟨fun halloc => exec_refuses_state hready rfl rfl trivial (ne_false_of_eq_true halloc), fun hfree => ?_⟩
  intro k n fits
  have hrun := exec_init_run hready hfree
  refine ⟨fun hnone => ?_, fun hsome hlarge => ?_, fun hsome hsmall hfails => ?_, fun hsome hsmall hfits => ?_⟩
  · exact hrun.trans (if_pos hnone)
  · exact hrun.trans <| (if_neg hsome).trans (if_pos hlarge)
  · have hrefused : (!allocSucceeds s c) = true := by
      rw [Bool.not_eq_true', ← Bool.not_eq_true, allocSucceeds_iff]; exact hfails
    exact hrun.trans <| (if_neg hsome).trans <| (if_neg hsmall.not_ge).trans (if_pos hrefused)
  · have hgranted : allocSucceeds s c = true := allocSucceeds_iff.mpr hfits
    have hothers := (actsOn_createContext s c).sameOtherContexts
    have hkept : ¬ (!allocSucceeds s c) = true := by rw [hgranted]; exact Bool.false_ne_true
    refine ⟨createContext s c, ?_, createContext_frame, ?_, hothers, ?_⟩
    · exact hrun.trans <| (if_neg hsome).trans <| (if_neg hsmall.not_ge).trans (if_neg hkept)
    · exact (congrArg List.length createContext_ctxs).trans (nctx_setCtx s c _)
    · rw [ctx_createContext hctx]
      refine ⟨rfl, (trunc32_toNat _).trans (Nat.mod_eq_of_lt hsmall), ringOk_initContext hgranted,
        bufByte_of_empty ?_, fun d off hd => hothers.bufByte hd off, fun a => ?_⟩
      · rw [ctx_createContext hctx]; rfl
      · rw [createContext_frame]; rfl

/-! ### DESTROY -/

section Destroy
variable {s : State} {c : CtxNum}

theorem exec_destroy_run (hready : RingReady s c) (hidle : s.active ≠ some c) :
    exec (.destroy c) s = .next (destroyContext s c) := by
  obtain ⟨⟨hfatal, hctx⟩, halloc⟩ := hready
  exact checked_run s _ _ (fun _ => hfatal) (decide_eq_true hctx) rfl (by simp [halloc, hidle]) rfl

theorem destroyContext_frame : destroyContext s c = answer { s with
    ctxs := (destroyContext s c).ctxs, vecCons := (s.ctx c).savedVecCons, vecXfer := (s.ctx c).savedVecXfer
    xferLost := sourceLost s c } 0x00 0 0 := by
  unfold destroyContext
  rw [loseSource_eq_sourceLost]
  rfl

theorem destroyContext_ctxs :
    (destroyContext s c).ctxs = (s.setCtx c { s.ctx c with alloc := false, buf := [] }).ctxs := by
  unfold destroyContext
  rw [loseSource_eq_sourceLost]
  rfl

theorem ctx_destroyContext (hctx : c.toNat < s.nctx) :
    (destroyContext s c).ctx c = { s.ctx c with alloc := false, buf := [] } :=
  (ctx_of_ctxs destroyContext_ctxs c).trans (ctx_setCtx_same s c _ hctx)

end Destroy

/-- Settles O15: the context is released, and the vectors it saved come back. -/
theorem destroyReleasesTheContext : Obligations.DestroyReleasesTheContext := by
  intro s c hready
  have ⟨_, hctx⟩ := hready
  refine ⟨fun hrefused => exec_refuses_state hready rfl rfl trivial ?_, fun halloc hidle => ?_⟩
  · rintro ⟨halloc, hidle⟩
    rcases hrefused with hfree | hactive
    · cases halloc.symm.trans hfree
    · exact hidle hactive
  · have hothers := (actsOn_destroyContext hidle).sameOtherContexts
    have hreleased := ctx_destroyContext hctx
    refine ⟨_, exec_destroy_run ⟨hready, halloc⟩ hidle, destroyContext_frame,
      (congrArg List.length destroyContext_ctxs).trans (nctx_setCtx s c _), hothers, hreleased,
      bufByte_of_empty (by rw [hreleased]), fun d off hd => hothers.bufByte hd off, fun a => ?_⟩
    rw [destroyContext_frame]; rfl

/-! ### START -/

section Start
variable {s t : State} {c : CtxNum}

/-- A run of the logic that does not overlap ends, and the mask it is for stays (R133, R139, R143). -/
theorem consumptionLogic_ran_of_active (hact : s.active = some c) (hctx : c.toNat < s.nctx)
    (hclear : (s.ctx c).length.toNat < (s.ctx c).chunk.toNat ∨ s.xferBusy = false) :
    ∃ t started, consumptionLogic s = .ran t started ∧
      chmaskOf t.config (t.ctx c) = chmaskOf s.config (s.ctx c) := by
  have hmask {t : State} {started : Bool} (hrun : consumptionLogic s = .ran t started)
      (hkept : (t.ctx c).chmask = (s.ctx c).chmask) : chmaskOf t.config (t.ctx c) = chmaskOf s.config (s.ctx c) := by
    rw [chmaskOf, chmaskOf, hkept, (sameParameters_consumptionLogic hrun).1]
  by_cases hunder : (s.ctx c).length.toNat < (s.ctx c).chunk.toNat
  · obtain ⟨t, hrun, -, -, -, hidled, -⟩ := underrunReenablesTheInterrupt s c hact hctx hunder
    exact ⟨t, false, hrun, hmask hrun (by rw [hidled]; rfl)⟩
  · have hrun := consumptionLogic_of_available hact hctx (Nat.le_of_not_lt hunder) (hclear.resolve_left hunder)
    exact ⟨_, true, hrun, hmask hrun (by rw [ctx_upload_of_active hctx]; rfl)⟩

/-- `StartTail` keys on the channels after its run of the logic, and answers true (R166 step 5, R168). -/
theorem startTail_of_ran {started : Bool}
    (hrun : consumptionLogic { s with trace := s.trace ++ wordsOf (startList s c) } = .ran t started)
    (hmask : chmaskOf t.config (t.ctx c) = chmaskOf s.config (s.ctx c)) :
    startTail s c = .next
      (answer { t with trace := t.trace ++ wordsOf [.keyOn (chmaskOf s.config (s.ctx c))] } 0x00 1 0) := by
  rw [← startWords_eq_wordsOf] at hrun
  unfold startTail State.emitAll
  rw [hrun, ← hmask]
  rfl

/-- With its stream active and no overlap, `StartTail` runs the logic after the words of R168 and answers true. -/
theorem startTail_answers (hact : s.active = some c) (hctx : c.toNat < s.nctx)
    (hclear : (s.ctx c).length.toNat < (s.ctx c).chunk.toNat ∨ s.xferBusy = false) :
    ∃ t started, consumptionLogic { s with trace := s.trace ++ wordsOf (startList s c) } = .ran t started ∧
      startTail s c = .next
        (answer { t with trace := t.trace ++ wordsOf [.keyOn (chmaskOf s.config (s.ctx c))] } 0x00 1 0) := by
  obtain ⟨t, started, hrun, hmask⟩ := consumptionLogic_ran_of_active
    (s := { s with trace := s.trace ++ wordsOf (startList s c) }) hact hctx hclear
  exact ⟨t, started, hrun, startTail_of_ran hrun hmask⟩

/-- A priming run that begins a transfer suspends `START` (R166 step 3). -/
theorem startBody_of_primed (hnone : s.active = none) (hrun : consumptionLogic (bind s c) = .ran t true) :
    startBody c false s = .next { t with primeWait := true } := by
  simp [startBody, hnone, hrun]

/-- A priming run that underruns goes on to `StartTail` (R166 step 4). -/
theorem startBody_of_unprimed (hnone : s.active = none) (hrun : consumptionLogic (bind s c) = .ran t false) :
    startBody c false s = startTail t c := by
  simp [startBody, hnone, hrun]

/-- `START` with a stream active answers false (R173). -/
theorem startBody_of_contended {resume : Bool} {a : CtxNum} (hact : s.active = some a) :
    startBody c resume s = .next (answer s 0x00 0 0) := by
  simp only [startBody, hact, Option.isSome_some, if_true]
  rfl

end Start

/-- Settles O17: the priming run is an upload, which leaves the response registers and the stream bound before it. -/
theorem startPrimesAndSuspends : Obligations.StartPrimesAndSuspends := by
  intro s c hready hnone havail hbusy
  have ⟨⟨_, hctx⟩, _⟩ := hready
  have hrun := consumptionLogic_of_available (s := bind s c) rfl hctx havail hbusy
  obtain ⟨hframe, -⟩ := consumptionLogic_frame (.inl ⟨true, hrun⟩)
  refine ⟨_, hrun, (exec_start_run hready false).trans (startBody_of_primed hnone hrun), ?_⟩
  rw [hframe]
  exact ⟨rfl, rfl, rfl, rfl⟩

/-- Settles O18: the resumed command is the `StartTail` of the bound stream. -/
theorem startResumesPlayback : Obligations.StartResumesPlayback := by
  intro s c hready hnone hclear
  have ⟨⟨_, hctx⟩, _⟩ := hready
  obtain ⟨t, started, hrun, htail⟩ := startTail_answers (s := bind s c) rfl hctx hclear
  exact ⟨t, started, hrun, (exec_start_run hready true).trans <| (startBody_resume hnone).trans htail⟩

/-! A stream whose entry into the logic has been made is started by the same words, and enters it again unchanged. -/

theorem idled_idled (k : Context) : idled (idled k) = idled k := by
  unfold idled
  cases k.phase <;> rfl

theorem SameMemory.trans {s t u : State} (hst : SameMemory s t) (htu : SameMemory t u) : SameMemory s u := by
  obtain ⟨hbuf, hdev⟩ := hst
  obtain ⟨hbuf', hdev'⟩ := htu
  exact ⟨fun c off => (hbuf' c off).trans (hbuf c off), fun a => (hdev' a).trans (hdev a)⟩

theorem SameOtherContexts.trans {s t u : State} {c : CtxNum} (hst : SameOtherContexts s t c)
    (htu : SameOtherContexts t u c) : SameOtherContexts s u c := fun d hd => (htu d hd).trans (hst d hd)

section Idled
variable {s t : State} {c : CtxNum} (hconfig : t.config = s.config) (hidled : t.ctx c = idled (s.ctx c))
include hidled

theorem underrunList_of_idled : underrunList t c = underrunList s c := by
  rw [underrunList, hidled]; rfl

include hconfig

theorem startList_of_idled : startList t c = startList s c := by
  simp only [startList, eachChannel, hidled, hconfig]; rfl

theorem chmaskOf_of_idled : chmaskOf t.config (t.ctx c) = chmaskOf s.config (s.ctx c) := by
  rw [hconfig, hidled]; rfl

end Idled

/-- Settles O19: both runs of the logic are underruns (R134), the first from the bound stream and the second after the
words of `StartTail`. -/
theorem startPlaysOnAfterAPrimingUnderrun : Obligations.StartPlaysOnAfterAPrimingUnderrun := by
  intro s c hready hnone hunder
  have ⟨⟨_, hctx⟩, _⟩ := hready
  obtain ⟨t, hprime, hframe, hn, hothers, hidled, hmem⟩ :=
    underrunReenablesTheInterrupt (bind s c) c rfl hctx hunder
  have hconfig : t.config = s.config := by rw [hframe]; rfl
  have hact : t.active = some c := by rw [hframe]; rfl
  have hunder' : (t.ctx c).length.toNat < (t.ctx c).chunk.toNat := by rw [hidled]; exact hunder
  obtain ⟨u, hrun, hframe', hn', hothers', hidled', hmem'⟩ := underrunReenablesTheInterrupt
    { t with trace := t.trace ++ wordsOf (startList t c) } c hact (hn.symm ▸ hctx) hunder'
  have hagain : u.ctx c = idled (s.ctx c) := hidled'.trans ((congrArg idled hidled).trans (idled_idled _))
  have hmask : chmaskOf t.config (t.ctx c) = chmaskOf s.config (s.ctx c) := chmaskOf_of_idled hconfig hidled
  have hlater : chmaskOf u.config (u.ctx c) = chmaskOf t.config (t.ctx c) :=
    (chmaskOf_of_idled (by rw [hframe', hconfig]) hagain).trans hmask.symm
  have hwords : underrunList { t with trace := t.trace ++ wordsOf (startList t c) } c = underrunList s c :=
    underrunList_of_idled hidled
  refine ⟨_, (exec_start_run hready false).trans <| (startBody_of_unprimed hnone hprime).trans <|
    startTail_of_ran hrun hlater, ?_, hn'.trans hn, hothers.trans hothers', hagain, hmem.trans hmem'⟩
  have hfirst : underrunList (bind s c) c = underrunList s c := rfl
  rw [hframe', hwords, startList_of_idled hconfig hidled, hmask, hframe, hfirst]
  simp only [wordsOf_append, List.append_assoc]
  rfl

/-! ### START_PHASE2 -/

/-- Where a condition of R167 fails, the turn passes without effect. -/
theorem startPhase2_of_disabled {s : State} (h : s.primeWait = false ∨ s.fatal ≠ 0 ∨
    ∃ a, s.active = some a ∧ (s.ctx a).buffering = true) : startPhase2 s = .next s := by
  have hdisabled : startPhase2Context s = none := by
    rcases h with hopen | hhalted | ⟨a, hact, hbuffering⟩
    · simp [startPhase2Context, hopen]
    · exact if_neg fun henabled => hhalted (eq_of_beq (Bool.and_eq_true_iff.mp henabled).2)
    · simp [startPhase2Context, hact, hbuffering]
  simp only [startPhase2, hdisabled]

/-- Settles O20: the enabled turn opens the port and is the `StartTail` of the active stream. -/
theorem startPhase2EndsThePrimingWait : Obligations.StartPhase2EndsThePrimingWait := by
  intro s rest hturn
  rw [step_startPhase2 s rest hturn]
  refine ⟨fun a hwait hfatal hact hctx hlanded hclear => ?_, fun hdisabled => ?_⟩
  · obtain ⟨t, started, hrun, htail⟩ :=
      startTail_answers (s := { s with turns := rest, primeWait := false }) hact hctx hclear
    exact ⟨t, started, hrun,
      (startPhase2_of_enabled (s := { s with turns := rest }) hact hwait hfatal hlanded).trans htail⟩
  · exact startPhase2_of_disabled (s := { s with turns := rest }) hdisabled

/-! ### STOP -/

theorem stopWords_eq_wordsOf (s : State) (a : CtxNum) :
    stopWords s a = wordsOf (.keyOff (chmaskOf s.config (s.ctx a)) ::
      eachChannel s a (fun _ ch => [.setStart ch s.config.silentAddr, .setLoop ch s.config.silentAddr])) := by
  change _ = keyOffWord _ :: wordsOf (eachChannel s a _)
  rw [wordsOf_eachChannel]
  rfl

/-- `STOP` has no check but that the block runs (R100, R169). -/
theorem exec_stop_of_active {s : State} {a : CtxNum} (hfatal : s.fatal = 0) (hact : s.active = some a) :
    exec .stop s = .next ({ s.emitAll (stopWords s a) with active := none }.respond .ok (boolWord true) 0) := by
  refine (checked_run s {} _ (fun _ => hfatal) rfl rfl rfl rfl).trans ?_
  simp only [hact]

/-- `STOP` with no stream active answers false (R173). -/
theorem exec_stop_of_inactive {s : State} (hfatal : s.fatal = 0) (hnone : s.active = none) :
    exec .stop s = .next (answer s 0x00 0 0) := by
  refine (checked_run s {} _ (fun _ => hfatal) rfl rfl rfl rfl).trans ?_
  simp only [hnone]
  rfl

/-- Settles O21: the words of the model are those of R169. -/
theorem stopSilencesTheActiveStream : Obligations.StopSilencesTheActiveStream := by
  intro s a hfatal hact
  rw [exec_stop_of_active hfatal hact, stopWords_eq_wordsOf]
  rfl

/-- Settles O16: each command finds the stream register as it may not be, and only answers. -/
theorem contentionAnswersFalse : Obligations.ContentionAnswersFalse :=
  ⟨fun _ _ resume _ hready hact => (exec_start_run hready resume).trans (startBody_of_contended hact),
    fun _ => exec_stop_of_inactive⟩

/-! ### SETRATE and ISACTIVE -/

theorem rateWords_eq_wordsOf (s : State) (c : CtxNum) (rate : Word) :
    rateWords s c rate = wordsOf (eachChannel s c (fun _ ch => [.setPitch ch (Config.pitchOf rate)])) := by
  rw [wordsOf_eachChannel]
  rfl

/-- The state a completed `SETRATE` leaves (R170). -/
def rerated (s : State) (c : CtxNum) (rate : Word) : State :=
  ((s.setCtx c { s.ctx c with rate := rate }).emitAll
    (if s.active = some c then rateWords s c rate else [])).respond .ok 0 0

theorem exec_setrate_run {s : State} {c : CtxNum} (hready : RingReady s c) (rate : Word) :
    exec (.setrate c rate) s = .next (rerated s c rate) := checked_feed_run hready _

/-- Settles O23: the rate is written in the context, and the words of R170 follow where the context is active. -/
theorem setrateReprogramsThePlayingStream : Obligations.SetrateReprogramsThePlayingStream := by
  intro s c rate hready
  have ⟨_, hctx⟩ := hready
  refine ⟨fun hfree => exec_refuses_state hready rfl rfl trivial (ne_true_of_eq_false hfree), fun halloc => ?_⟩
  refine ⟨rerated s c rate, exec_setrate_run ⟨hready, halloc⟩ rate, rfl, nctx_setCtx s c _,
    sameOtherContexts_setCtx s c _, ctx_setCtx_same s c _ hctx, sameMemory_setCtx (by rfl), fun hact => ?_,
    fun hidle => ?_⟩
  · rw [← rateWords_eq_wordsOf]
    exact congrArg (s.trace ++ ·) (if_pos hact)
  · exact (congrArg (s.trace ++ ·) (if_neg hidle)).trans (List.append_nil _)

/-- `ISACTIVE` checks only that the block runs and the context exists (R100, R171). -/
theorem exec_isactive_run {s : State} {c : CtxNum} (hready : Ready s c) :
    exec (.isactive c) s = .next (answer s 0x00 (boolWord (s.active == some c)) 0) := by
  obtain ⟨hfatal, hctx⟩ := hready
  exact checked_run s _ _ (fun _ => hfatal) (decide_eq_true hctx) rfl rfl rfl

/-- Settles O24: the answer is the comparison of `ACTIVE` with the context. -/
theorem isactiveIsAPureQuery : Obligations.IsactiveIsAPureQuery := by
  intro s c hready
  rw [exec_isactive_run hready]
  refine ⟨fun hact => ?_, fun hidle => ?_⟩
  · rw [hact, beq_self_eq_true]; rfl
  · rw [beq_eq_false_iff_ne.mpr hidle]; rfl

end Sys2Proof.Machine
end

section
/-! The exceptions (60_exceptions.md): the fatal abort, which only `INIT` raises and only reset leaves (R191 to R193), and
the bits of the consumption interrupt (R198). What an instruction and a step do to them is said once (`exec_signals`,
`step_signals`); each rule is read off the cases. -/

namespace Sys2Proof.Machine

/-! ### The signals -/

/-- The cause of a fatal abort and the bits of the consumption interrupt are the same in both states. -/
def SameSignals (s t : State) : Prop := t.fatal = s.fatal ∧ t.consEn = s.consEn ∧ t.consPend = s.consPend

/-- A stream is active with less than a chunk buffered (R133). -/
def Starved (s : State) : Prop := ∃ a, s.active = some a ∧ (s.ctx a).length.toNat < (s.ctx a).chunk.toNat

/-- What a run of the consumption logic leaves of the signals: it has acknowledged the interrupt, and enabled it again
only on an underrun (R132, R134). -/
def LogicRan (s t : State) : Prop := t.fatal = s.fatal ∧ t.consPend = false ∧ (t.consEn = true → Starved t)

theorem SameSignals.refl (s : State) : SameSignals s s := ⟨rfl, rfl, rfl⟩

/-! ### The consumption logic and what runs it -/

/-- The underrun branch is taken on a starved stream, and writes no register of it (R133, R134). -/
theorem starved_underrunBranch {s : State} {a : CtxNum} (hact : s.active = some a)
    (hunder : underrunDue (s.ctx a) = true) : Starved (underrunBranch s a) := by
  refine ⟨a, ?_, ?_⟩
  · rw [underrunBranch_eq]; exact hact
  · rw [ctx_of_ctxs (underrunBranch_ctxs s a)]
    exact of_decide_eq_true hunder

theorem logicRan_consumptionLogic {s t : State} {started : Bool} (h : consumptionLogic s = .ran t started) :
    LogicRan s t := by
  obtain ⟨hframe, -⟩ := consumptionLogic_frame (.inl ⟨started, h⟩)
  refine ⟨by rw [hframe], by rw [hframe], fun hen => ?_⟩
  rcases consumptionLogic_cases s with ⟨-, e⟩ | ⟨a, u, hact, hu, hrun⟩
  · rw [e] at h; cases h
    cases hen
  have hentry : u = _ := hu.trans (enterIdle_acknowledge_frame s a)
  rcases hrun with ⟨hunder, e⟩ | ⟨-, -, e⟩ | ⟨-, -, e⟩ <;> rw [e] at h <;> cases h
  · exact starved_underrunBranch (by rw [hentry]; exact hact) hunder
  · rw [uploadChunk_consEn, hentry] at hen
    cases hen

/-- The words before the run of `StartTail`, and the word and the answer after it, leave what the run leaves (R168). -/
theorem logicRan_startTail {s t : State} {c : CtxNum} (h : startTail s c = .next t) : LogicRan s t := by
  unfold startTail at h
  split at h <;> cases h
  next hrun =>
  have ran := logicRan_consumptionLogic hrun
  exact ran

/-- `START` past its checks answers only, or ends with a run of the logic (R166, R173). -/
theorem startBody_signals {s t : State} {c : CtxNum} {resume : Bool} (h : startBody c resume s = .next t) :
    SameSignals s t ∨ LogicRan s t := by
  unfold startBody at h
  split at h
  · cases h; exact .inl ⟨rfl, rfl, rfl⟩
  right
  split at h
  · exact logicRan_startTail (s := bind s c) h
  split at h
  · cases h
  · next hprime =>
    cases h
    have primed := logicRan_consumptionLogic hprime
    exact primed
  · next hprime =>
    obtain ⟨hprimed, -⟩ := logicRan_consumptionLogic hprime
    obtain ⟨hstarted, ran⟩ := logicRan_startTail h
    exact ⟨hstarted.trans hprimed, ran⟩

theorem startPhase2_signals {s t : State} (h : startPhase2 s = .next t) : SameSignals s t ∨ LogicRan s t := by
  unfold startPhase2 at h
  split at h
  · have ran := logicRan_startTail h
    exact .inr ran
  · cases h; exact .inl (.refl s)

theorem dispatchCons_signals {s t : State} (h : dispatchCons s = .next t) :
    SameSignals s t ∨ (ConsEnabled s ∧ LogicRan s t) := by
  by_cases hen : ConsEnabled s
  · rw [dispatchCons, if_pos ((dispatchConsEnabled_iff s).mpr hen)] at h
    split at h <;> cases h
    next hrun => exact .inr ⟨hen, logicRan_consumptionLogic hrun⟩
  · cases (dispatchCons_of_disabled hen).symm.trans h
    exact .inl (.refl s)

theorem dispatchXfer_signals {s t : State} (h : dispatchXfer s = .next t) :
    SameSignals s t ∨ (XferEnabled s ∧ t.fatal = s.fatal ∧ t.consEn = true) := by
  by_cases hen : XferEnabled s
  · cases (dispatchXfer_of_enabled hen).symm.trans h
    exact .inr ⟨hen, by rw [completionHandler_frame], by rw [completionHandler_frame]⟩
  · cases (dispatchXfer_of_disabled hen).symm.trans h
    exact .inl (.refl s)

/-! ### The instructions -/

/-- A checked command keeps the signals where its own outcome does, since a refusal answers only. -/
theorem sameSignals_checked {s t : State} {k : Checks} {run : Result} (h : checked s k run = .next t)
    (hrun : run = .next t → SameSignals s t) : SameSignals s t := by
  rcases checked_cases h with ⟨st, v, e⟩ | ⟨e, -⟩
  · cases e; exact ⟨rfl, rfl, rfl⟩
  · exact hrun e.symm

/-- `INIT` keeps the signals, or raises a fatal abort on a block that runs, with one of the two causes (R163, R192). -/
theorem execInit_signals {s t : State} {c : CtxNum} (h : execInit c s = .next t) :
    SameSignals s t ∨ ∃ cause, (cause = causeNoChannel ∨ cause = causeAllocFail) ∧ s.fatal = 0 ∧
      t = raiseFatal s cause := by
  rcases checked_cases h with ⟨st, v, e⟩ | ⟨e, runs, -⟩
  · cases e; exact .inl ⟨rfl, rfl, rfl⟩
  split at e
  · cases e; exact .inr ⟨_, .inl rfl, runs rfl, rfl⟩
  split at e
  · cases e; exact .inl ⟨rfl, rfl, rfl⟩
  split at e
  · cases e; exact .inr ⟨_, .inr rfl, runs rfl, rfl⟩
  · cases e
    rw [createContext_frame]
    exact .inl ⟨rfl, rfl, rfl⟩

/-- All an instruction that completes can do to the signals: nothing; run the consumption logic, as `START`; latch an edge
while the interrupt is enabled; or raise a fatal abort, as `INIT`. -/
theorem exec_signals {i : Instr} {s t : State} (h : exec i s = .next t) :
    SameSignals s t ∨
    ((∃ c resume, i = .start c resume) ∧ LogicRan s t) ∨
    (s.consEn = true ∧ t = { s with consPend := true }) ∨
    (∃ c cause, i = .init c ∧ (cause = causeNoChannel ∨ cause = causeAllocFail) ∧ s.fatal = 0 ∧
      t = raiseFatal s cause) := by
  cases i with
  | start c resume =>
    rcases checked_cases h with ⟨st, v, e⟩ | ⟨e, -⟩
    · cases e; exact .inl ⟨rfl, rfl, rfl⟩
    · exact (startBody_signals e.symm).imp_right fun ran => .inl ⟨⟨c, resume, rfl⟩, ran⟩
  | init c =>
    exact (execInit_signals h).imp_right fun ⟨cause, hcause, runs, ht⟩ => .inr (.inr ⟨c, cause, rfl, hcause, runs, ht⟩)
  | evConsEdge =>
    rcases Bool.eq_false_or_eq_true s.consEn with hen | hen
    · cases (exec_evConsEdge_of_enabled hen).symm.trans h
      exact .inr (.inr (.inl ⟨hen, rfl⟩))
    · cases (exec_evConsEdge_of_disabled hen).symm.trans h
      exact .inl (.refl s)
  | evXferDone =>
    cases h
    left
    split <;> exact ⟨rfl, rfl, rfl⟩
  | destroy c =>
    refine .inl (sameSignals_checked h fun hrun => ?_)
    cases hrun
    rw [destroyContext_frame]
    exact ⟨rfl, rfl, rfl⟩
  | wrbuf c byte offset =>
    refine .inl (sameSignals_checked h fun hrun => ?_)
    cases hrun
    rw [memWrite_frame]
    exact ⟨rfl, rfl, rfl⟩
  | rdbuf c offset =>
    refine .inl (sameSignals_checked h fun hrun => ?_)
    cases hrun
    rcases memRead_cases s c offset.toNat with ⟨v, -, e⟩ | ⟨-, e⟩ <;> rw [e] <;> exact ⟨rfl, rfl, rfl⟩
  | rdreg c reg =>
    simp only [exec, execRdreg] at h
    split at h <;> exact .inl (sameSignals_checked h fun hrun => by cases hrun; exact ⟨rfl, rfl, rfl⟩)
  | stop =>
    refine .inl (sameSignals_checked h fun hrun => ?_)
    split at hrun <;> cases hrun <;> exact ⟨rfl, rfl, rfl⟩
  | wrcfg | setrate | isactive | reflen | feedptr | feed =>
    exact .inl (sameSignals_checked h fun hrun => by cases hrun; exact ⟨rfl, rfl, rfl⟩)
  | setLoop | setIrqAddr | xferStart | keyOn | keyOff | setPitch | setEnv | setStart | cbRefill | cbUnderrun =>
    cases h; exact .inl ⟨rfl, rfl, rfl⟩

/-! ### The steps -/

/-- All a step can do to the signals, each with what brings it about. -/
inductive SignalStep (s t : State) : Prop where
  /-- Nothing. -/
  | quiet (same : SameSignals s t)
  /-- A run of the consumption logic, in `START`, in `START_PHASE2` or in an enabled `DISPATCH_CONS` (R131). -/
  | ran (logic : LogicRan s t)
      (cause : ((∃ c resume, Accepts s (.start c resume)) ∨ s.nextTurn = some .startPhase2) ∨ ConsEnabled s)
  /-- An edge latched while the interrupt is enabled (R141). -/
  | latched (fatal : t.fatal = s.fatal) (was : s.consEn = true) (is : t.consEn = true)
  /-- An enabled `DISPATCH_XFER`, which enables the interrupt (R151). -/
  | completed (fatal : t.fatal = s.fatal) (turn : s.nextTurn = some .dispatchXfer) (enabled : XferEnabled s)
      (is : t.consEn = true)
  /-- A fatal abort raised by an accepted `INIT` (R191, R192). -/
  | aborted (c : CtxNum) (accepts : Accepts s (.init c)) (cause : Word)
      (listed : cause = causeNoChannel ∨ cause = causeAllocFail) (running : s.fatal = 0)
      (raised : t = raiseFatal { s with turns := s.turns.tail, cmdPort := s.cmdPort.tail } cause)
  /-- The hardware reset (R51). -/
  | reset (turn : s.nextTurn = some .reset) (table : t = hardwareReset { s with turns := s.turns.tail })

/-- Only the queues are moved before an instruction or a turn runs, so its cases are those of the step. -/
theorem step_signals {s t : State} (h : step s = .next t) : SignalStep s t := by
  rcases step_next_cases h with ⟨ts, rfl, -⟩ | ⟨rfl, -⟩ | ⟨i, ts, ws, hexec, -, -, hport⟩ | ⟨hnext, hrun⟩ | ⟨-, hrun⟩ |
    ⟨hnext, hrun⟩ | ⟨hnext, ht⟩ | ⟨ok, -, rfl⟩
  case inl | inr.inl => exact .quiet ⟨rfl, rfl, rfl⟩
  · have accepted : i.port = .command → Accepts s i ∧ ts = s.turns.tail ∧ ws = s.cmdPort.tail := by
      intro hcommand
      rcases hport with ⟨hacc, -, hts, hws⟩ | ⟨hevent, -⟩ | ⟨houtput, -⟩
      · exact ⟨hacc, hts, hws⟩
      · cases hcommand.symm.trans hevent
      · cases hcommand.symm.trans houtput
    rcases exec_signals hexec with same | ⟨⟨c, resume, rfl⟩, ran⟩ | ⟨hen, rfl⟩ | ⟨c, cause, rfl, listed, running, ht⟩
    · exact .quiet same
    · obtain ⟨haccepts, -⟩ := accepted rfl
      exact .ran ran (.inl (.inl ⟨c, resume, haccepts⟩))
    · exact .latched rfl hen hen
    · obtain ⟨haccepts, rfl, rfl⟩ := accepted rfl
      exact .aborted c haccepts cause listed running ht
  · rcases dispatchXfer_signals hrun with same | ⟨hen, fatal, is⟩
    · exact .quiet same
    · exact .completed fatal hnext hen is
  · rcases dispatchCons_signals hrun with same | ⟨hen, ran⟩
    · exact .quiet same
    · exact .ran ran (.inr hen)
  · rcases startPhase2_signals hrun with same | ran
    · exact .quiet same
    · exact .ran ran (.inl (.inr hnext))
  · exact .reset hnext ht
  · exact .quiet ⟨rfl, rfl, rfl⟩

/-! ### The consumption interrupt -/

/-- Settles O55: a run of the logic and the reset leave nothing pending, and an edge and a completion leave the interrupt
enabled. -/
theorem arbiterInvariantIsKept : Obligations.ArbiterInvariantIsKept := by
  intro s t hinv hstep
  cases step_signals hstep with
  | quiet same =>
    obtain ⟨-, hen, hpend⟩ := same
    exact fun pending => hen.trans (hinv (hpend.symm.trans pending))
  | ran logic =>
    obtain ⟨-, hclear, -⟩ := logic
    exact fun pending => absurd (hclear.symm.trans pending) Bool.false_ne_true
  | latched _ _ is => exact fun _ => is
  | completed _ _ _ is => exact fun _ => is
  | aborted _ _ _ _ _ raised => exact raised ▸ hinv
  | reset _ table => exact table ▸ nofun

/-- Settles O38: what else leaves the interrupt enabled found it enabled. -/
theorem onlyCompletionOrUnderrunEnablesTheInterrupt : Obligations.OnlyCompletionOrUnderrunEnablesTheInterrupt := by
  intro s t hstep hdis hen
  have wasEnabled {P : Prop} (was : s.consEn = true) : P := absurd (hdis.symm.trans was) Bool.false_ne_true
  cases step_signals hstep with
  | quiet same =>
    obtain ⟨-, hkept, -⟩ := same
    exact wasEnabled (hkept.symm.trans hen)
  | ran logic cause =>
    rcases cause with hstart | ⟨-, was, -⟩
    · obtain ⟨-, -, starved⟩ := logic
      exact .inr ⟨hstart, starved hen⟩
    · exact wasEnabled was
  | latched _ was _ => exact wasEnabled was
  | completed _ turn enabled _ => exact .inl ⟨turn, enabled⟩
  | aborted _ _ _ _ _ raised => exact wasEnabled (by rw [raised] at hen; exact hen)
  | reset _ table => rw [table] at hen; cases hen

/-! ### The fatal abort -/

/-- All a step can do to `FATAL`: nothing; write it, as an accepted `INIT` of a block that runs; or reset it (R191,
R193). -/
theorem step_fatal {s t : State} (h : step s = .next t) :
    t.fatal = s.fatal ∨
    (∃ c cause, Accepts s (.init c) ∧ (cause = causeNoChannel ∨ cause = causeAllocFail) ∧ s.fatal = 0 ∧
      t = raiseFatal { s with turns := s.turns.tail, cmdPort := s.cmdPort.tail } cause) ∨
    (s.nextTurn = some .reset ∧ t.fatal = 0) := by
  cases step_signals h with
  | quiet same =>
    obtain ⟨hkept, -⟩ := same
    exact .inl hkept
  | ran logic =>
    obtain ⟨hkept, -⟩ := logic
    exact .inl hkept
  | latched fatal => exact .inl fatal
  | completed fatal => exact .inl fatal
  | aborted c accepts cause listed running raised =>
    exact .inr (.inl ⟨c, cause, accepts, listed, running, raised⟩)
  | reset turn table => exact .inr (.inr ⟨turn, table ▸ rfl⟩)

/-- Settles O9: of the steps that write `FATAL`, reset clears it. -/
theorem onlyInitRaisesAFatalAbort : Obligations.OnlyInitRaisesAFatalAbort := by
  intro s t hstep hrunning hraised
  rcases step_fatal hstep with hkept | ⟨c, cause, haccepts, hcause, -, rfl⟩ | ⟨-, hreset⟩
  · exact absurd (hkept.trans hrunning) hraised
  · exact ⟨⟨c, haccepts⟩, hcause, rfl⟩
  · exact absurd hreset hraised

/-- The three steps of the block's own need a block that runs (R142, R151, R167, R193). -/
theorem internalStep_of_halted {s : State} (hhalted : s.fatal ≠ 0) :
    dispatchXfer s = .next s ∧ dispatchCons s = .next s ∧ startPhase2 s = .next s :=
  ⟨dispatchXfer_of_disabled fun ⟨_, _, running⟩ => hhalted running,
    dispatchCons_of_disabled fun ⟨_, _, _, running, _⟩ => hhalted running,
    startPhase2_of_disabled (.inr (.inl hhalted))⟩

/-- `EV_XFER_DONE` turns a transfer in flight into a completion due, halted or not (R150). -/
theorem exec_evXferDone_bits (s : State) :
    ∃ t, exec .evXferDone s = .next t ∧ t.xferBusy = false ∧ t.xferPend = (s.xferPend || s.xferBusy) := by
  cases hbusy : s.xferBusy with
  | true => exact ⟨_, execEvXferDone_of_busy hbusy, rfl, (Bool.or_true _).symm⟩
  | false => exact ⟨s, exec_evXferDone_of_idle hbusy, hbusy, (Bool.or_false _).symm⟩

/-- Settles O8: the halt check refuses every command but `RDREG`, and the enabling condition of every internal step asks
for a block that runs. -/
theorem haltedBlockOnlyAnswersUntilReset : Obligations.HaltedBlockOnlyAnswersUntilReset := by
  intro s hhalted
  refine ⟨fun i hport hrdreg => ?_, fun rest hturn => ?_, ⟨_, edgesLatchOnlyWhileEnabled s, rfl⟩,
    exec_evXferDone_bits s, fun t hstep hreset => ?_⟩
  · obtain ⟨refuses, -⟩ := firstFailingCheckAnswers s i hport
    exact refuses (not_or.mpr ⟨hhalted, fun ⟨c, r, e⟩ => hrdreg c r e⟩)
  · obtain ⟨xfer, cons, phase2⟩ := internalStep_of_halted (s := { s with turns := rest }) hhalted
    rcases hturn with hturn | hturn | hturn
    · exact (step_dispatchXfer s rest hturn).trans xfer
    · exact (step_dispatchCons s rest hturn).trans cons
    · exact (step_startPhase2 s rest hturn).trans phase2
  · rcases step_fatal hstep with hkept | ⟨_, _, -, -, hrunning, -⟩ | ⟨hturn, -⟩
    · exact hkept
    · exact absurd hrunning hhalted
    · exact absurd hturn hreset

end Sys2Proof.Machine
end
